-- ==== Sys2Proof/Word.lean ====
section
/-! DEFINITION. The word types of the Sirius CPU (spec/00_scope.md R4, R5). Everything that computes on them
stands in Decode.lean or under Machine/. -/

namespace Sys2Proof

/-- A 32-bit word: `XLEN`, the width of the general registers, `pc` and `psr` (R4). -/
abbrev Word := BitVec 32

/-- A byte, one cell of either memory (spec/20_memory.md R50). -/
abbrev Byte := BitVec 8

/-- The number of a general register, a 5-bit instruction field (spec/10_state.md R20). -/
abbrev RegNum := BitVec 5

end Sys2Proof
end

