-- ==== Sys2Proof/Config.lean ====
section
/-! DEFINITION. The parameters of spec/00_scope.md R4 at the values the spec takes, and the free values
of the model (constants without a body). Log 12 says which parameters are carried and how. -/

namespace Sys2Proof

/-- The three treatments of a defined instruction with a non-zero must-be-zero bit (R4 `MBZ_POLICY`). -/
inductive MbzPolicy where
  | refuse
  | ignore
  | illegal
deriving DecidableEq, Repr

/-- The two treatments of `syscall` with a register of 256 or more (R4 `SYSCALL_REG_WIDE`). -/
inductive WideSyscall where
  | ignoreHighBits
  | refuse
deriving DecidableEq, Repr

/-- The two treatments of `0x80000000 / -1` (R4 `DIV_OVERFLOW`). -/
inductive DivOverflow where
  | wrap
  | anyValue
deriving DecidableEq, Repr

/-- Bits of a general register, of `pc` and of `psr` (R4 `XLEN`), the width of `Word`. -/
def Config.xlen : Nat := 32

/-- General registers (R4 `NREGS`). -/
def Config.nregs : Nat := 32

/-- Bits of an instruction (R4 `ILEN`). -/
def Config.ilen : Nat := 32

/-- Address bits of main memory (R4 `MAIN_ADDR_BITS`). -/
def Config.mainAddrBits : Nat := 24

/-- Address bits of data memory (R4 `DATA_ADDR_BITS`). -/
def Config.dataAddrBits : Nat := 16

/-- Bytes of main address space. -/
def Config.mainSpace : Nat := 2 ^ Config.mainAddrBits

/-- Bytes of main memory installed (R4 `MEM_SIZE`, default `2^24`). -/
def Config.memSize : Nat := 0x1000000

/-- Bytes of data memory (R4 `DATA_SIZE`). -/
def Config.dataSize : Nat := 2 ^ Config.dataAddrBits

/-- Bytes in a page (R4 `PAGE_SIZE`); spec/20_memory.md R77 gives rules for this size only. -/
def Config.pageSize : Nat := 4096

/-- Bytes in a page-table or page-directory entry (R4 `ENTRY_SIZE`). -/
def Config.entrySize : Nat := 2

/-- Entries in a page table (R4 `PT_ENTRIES`). -/
def Config.ptEntries : Nat := 1024

/-- Bytes in a page table (R4 `PT_SIZE`, the source's formula). -/
def Config.ptSize : Nat := Config.ptEntries * Config.entrySize

/-- Entries in the page directory (R4 `PD_ENTRIES`, the source's formula). -/
def Config.pdEntries : Nat := Config.memSize / Config.pageSize / Config.ptEntries

/-- Vectors: the vector is a byte (R4 `NVECTORS`). -/
def Config.nvectors : Nat := 256

/-- Bytes in an interrupt vector table entry (R4 `IVT_ENTRY_SIZE`). -/
def Config.ivtEntrySize : Nat := 4

/-- Bytes between the possible bases of the interrupt vector table (spec/10_state.md R31). -/
def Config.ivtScale : Nat := 1024

/-- Bytes between the possible bases of the page directory (spec/10_state.md R32). -/
def Config.pdtScale : Nat := 256

/-- `pc` seen by an executing instruction minus the instruction's address (R4 `PC_BASE`, R10 step 4). -/
def Config.pcBase : Word := 4

/-- Whether a misaligned data access raises Address Error (R4 `ALIGN_CHECK`). -/
def Config.alignCheck : Bool := true

/-- Whether `sh` and `sw` need supervisor mode (R4 `SH_SW_PRIVILEGED`, spec/90_conflicts.md C6). -/
def Config.shSwPrivileged : Bool := false

/-- Whether `psr` bits 11:0 keep what is written to them (R4 `PSR_RES_STORED`). -/
def Config.psrResStored : Bool := true

/-- R4 `MBZ_POLICY`. -/
def Config.mbzPolicy : MbzPolicy := .refuse

/-- R4 `SYSCALL_REG_WIDE`. -/
def Config.syscallRegWide : WideSyscall := .ignoreHighBits

/-- R4 `DIV_OVERFLOW`. -/
def Config.divOverflow : DivOverflow := .wrap

/-- Whether shift amounts are reduced to their low 5 bits (R4 `SHIFT_MASK5`). -/
def Config.shiftMask5 : Bool := true

/-- The last address of the device ports that every `DEVICE_REGION` contains, from 0 up (R4; spec/20_memory.md R58).
The rest of the region is an argument of the machine, `State.deviceRegion`. -/
def Config.devicePortsLast : Nat := 0x20

/-- FREE VALUE (log 7): the draw that picks one of several pending requests of equal priority, applied
to the counter `State.draws` (spec/60_exceptions.md R305, "among equals: any"). -/
opaque Config.interruptDraw : Nat → Nat

/-- FREE VALUE: the quotient of `0x80000000 / -1` were `DIV_OVERFLOW` `anyValue` (log 12). -/
opaque Config.overflowQuotient : Word → Word → Word

/-- FREE VALUE: the remainder of `0x80000000 / -1` were `DIV_OVERFLOW` `anyValue` (log 12). -/
opaque Config.overflowRemainder : Word → Word → Word

/-- FREE VALUE: what `psr` bits 11:0 hold after a write were `PSR_RES_STORED` false (log 12). -/
opaque Config.unstoredReserved : BitVec 12 → BitVec 12

end Sys2Proof
end

