-- ==== Sys2Proof/Syntax.lean ====
section
/-! DEFINITION. The instructions, one constructor per row of spec/opcode_table.json (71 rows), operands in
the order of the assembly syntax (spec/30_encoding.md R103). A signed immediate or offset is the number the
assembly writes (R105, R106), in bytes for every offset; WellFormed.lean says which numbers can be encoded. -/

namespace Sys2Proof

/-- An instruction of the Sirius CPU. -/
inductive Instr where
  -- T: system management (47_t.md)
  /-- `syscall`, R270. -/
  | syscall (rd : RegNum) (vector : BitVec 8)
  /-- `gsreg`, R271. -/
  | gsreg (rd : RegNum)
  /-- `ssreg`, R272. -/
  | ssreg (rs1 : RegNum)
  /-- `sysret`, R273. -/
  | sysret
  -- M: buffers, pointers, stacks, register ranges (46_m.md)
  /-- `copy`, R242. -/
  | copy (src : RegNum) (dest : RegNum) (len : RegNum)
  /-- `swap`, R243. -/
  | swap (buff1 : RegNum) (buff2 : RegNum) (len : RegNum)
  /-- `fill`, R244. -/
  | fill (buff : RegNum) (n : RegNum) (byte : RegNum)
  /-- `through`, R245. -/
  | through (rd : RegNum) (rs1 : RegNum)
  /-- `from`, R246. -/
  | fromPtr (rd : RegNum) (rs1 : RegNum)
  /-- `popb`, R247. -/
  | popb (rd : RegNum) (sp : RegNum)
  /-- `poph`, R248. -/
  | poph (rd : RegNum) (sp : RegNum)
  /-- `pop`, R249. -/
  | pop (rd : RegNum) (sp : RegNum)
  /-- `pushb`, R250. -/
  | pushb (rd : RegNum) (sp : RegNum)
  /-- `pushh`, R251. -/
  | pushh (rd : RegNum) (sp : RegNum)
  /-- `push`, R252. -/
  | push (rd : RegNum) (sp : RegNum)
  /-- `save`, R253. -/
  | save (first : RegNum) (last : RegNum) (dest : RegNum)
  /-- `restore`, R254. -/
  | restore (first : RegNum) (last : RegNum) (src : RegNum)
  /-- `exch`, R255. -/
  | exch (rs1 : RegNum) (rs2 : RegNum)
  -- J and U (40_u_j.md)
  /-- `jal`, R142. -/
  | jal (rd : RegNum) (off : Int)
  /-- `lui`, R140. -/
  | lui (rd : RegNum) (imm : BitVec 20)
  /-- `auipc`, R141. -/
  | auipc (rd : RegNum) (imm : BitVec 20)
  -- B: conditional branches (41_b.md)
  /-- `beq`, R151. -/
  | beq (rs1 : RegNum) (rs2 : RegNum) (off : Int)
  /-- `bne`, R152. -/
  | bne (rs1 : RegNum) (rs2 : RegNum) (off : Int)
  /-- `blt`, R153. -/
  | blt (rs1 : RegNum) (rs2 : RegNum) (off : Int)
  /-- `bge`, R154. -/
  | bge (rs1 : RegNum) (rs2 : RegNum) (off : Int)
  /-- `bltu`, R155. -/
  | bltu (rs1 : RegNum) (rs2 : RegNum) (off : Int)
  /-- `bgeu`, R156. -/
  | bgeu (rs1 : RegNum) (rs2 : RegNum) (off : Int)
  -- I: jalr and loads (42_i_jalr_loads.md)
  /-- `jalr`, R160. -/
  | jalr (rd : RegNum) (rs1 : RegNum) (off : Int)
  /-- `lb`, R161. -/
  | lb (rd : RegNum) (rs1 : RegNum) (off : Int)
  /-- `lbu`, R162. -/
  | lbu (rd : RegNum) (rs1 : RegNum) (off : Int)
  /-- `lbd`, R163. -/
  | lbd (rd : RegNum) (rs1 : RegNum) (off : Int)
  /-- `lbud`, R164. -/
  | lbud (rd : RegNum) (rs1 : RegNum) (off : Int)
  /-- `lh`, R165. -/
  | lh (rd : RegNum) (rs1 : RegNum) (off : Int)
  /-- `lhu`, R166. -/
  | lhu (rd : RegNum) (rs1 : RegNum) (off : Int)
  /-- `lhd`, R167. -/
  | lhd (rd : RegNum) (rs1 : RegNum) (off : Int)
  /-- `lhud`, R168. -/
  | lhud (rd : RegNum) (rs1 : RegNum) (off : Int)
  /-- `lw`, R169. -/
  | lw (rd : RegNum) (rs1 : RegNum) (off : Int)
  /-- `lwd`, R170. -/
  | lwd (rd : RegNum) (rs1 : RegNum) (off : Int)
  -- I: arithmetic with an immediate (43_i_arith.md)
  /-- `muli`, R180. -/
  | muli (rd : RegNum) (rs1 : RegNum) (imm : Int)
  /-- `mulih`, R181. -/
  | mulih (rd : RegNum) (rs1 : RegNum) (imm : Int)
  /-- `idivi`, R182. -/
  | idivi (rd : RegNum) (rs1 : RegNum) (imm : Int)
  /-- `addi`, R183. -/
  | addi (rd : RegNum) (rs1 : RegNum) (imm : Int)
  /-- `subi`, R184. -/
  | subi (rd : RegNum) (rs1 : RegNum) (imm : Int)
  /-- `ori`, R185. -/
  | ori (rd : RegNum) (rs1 : RegNum) (imm : Int)
  /-- `andi`, R186. -/
  | andi (rd : RegNum) (rs1 : RegNum) (imm : Int)
  /-- `xori`, R187. -/
  | xori (rd : RegNum) (rs1 : RegNum) (imm : Int)
  /-- `shira`, R188. -/
  | shira (rd : RegNum) (rs1 : RegNum) (imm : Int)
  /-- `shirl`, R189. -/
  | shirl (rd : RegNum) (rs1 : RegNum) (imm : Int)
  /-- `shill`, R190. -/
  | shill (rd : RegNum) (rs1 : RegNum) (imm : Int)
  -- R: register arithmetic (45_r.md)
  /-- `add`, R211. -/
  | add (rd : RegNum) (rs1 : RegNum) (rs2 : RegNum)
  /-- `sub`, R212. -/
  | sub (rd : RegNum) (rs1 : RegNum) (rs2 : RegNum)
  /-- `idiv`, R213. -/
  | idiv (rd : RegNum) (rd2 : RegNum) (rs1 : RegNum) (rs2 : RegNum)
  /-- `mul`, R214. -/
  | mul (rd : RegNum) (rd2 : RegNum) (rs1 : RegNum) (rs2 : RegNum)
  /-- `or`, R215. -/
  | or (rd : RegNum) (rs1 : RegNum) (rs2 : RegNum)
  /-- `and`, R216. -/
  | and (rd : RegNum) (rs1 : RegNum) (rs2 : RegNum)
  /-- `xor`, R217. -/
  | xor (rd : RegNum) (rs1 : RegNum) (rs2 : RegNum)
  /-- `not`, R218. -/
  | not (rd : RegNum) (rs1 : RegNum)
  /-- `ctz`, R219. -/
  | ctz (rd : RegNum) (rs1 : RegNum)
  /-- `clz`, R220. -/
  | clz (rd : RegNum) (rs1 : RegNum)
  /-- `popcount`, R221. -/
  | popcount (rd : RegNum) (rs1 : RegNum)
  /-- `shra`, R222. -/
  | shra (rd : RegNum) (rs1 : RegNum) (rs2 : RegNum)
  /-- `shrl`, R223. -/
  | shrl (rd : RegNum) (rs1 : RegNum) (rs2 : RegNum)
  /-- `shll`, R224. -/
  | shll (rd : RegNum) (rs1 : RegNum) (rs2 : RegNum)
  /-- `ror`, R225. -/
  | ror (rd : RegNum) (rs1 : RegNum) (rs2 : RegNum)
  /-- `rol`, R226. -/
  | rol (rd : RegNum) (rs1 : RegNum) (rs2 : RegNum)
  -- S: stores (44_s.md)
  /-- `sb`, R201. -/
  | sb (rs1 : RegNum) (rs2 : RegNum) (off : Int)
  /-- `sbd`, R202. -/
  | sbd (rs1 : RegNum) (rs2 : RegNum) (off : Int)
  /-- `sh`, R203. -/
  | sh (rs1 : RegNum) (rs2 : RegNum) (off : Int)
  /-- `shd`, R204. -/
  | shd (rs1 : RegNum) (rs2 : RegNum) (off : Int)
  /-- `sw`, R205. -/
  | sw (rs1 : RegNum) (rs2 : RegNum) (off : Int)
  /-- `swd`, R206. -/
  | swd (rs1 : RegNum) (rs2 : RegNum) (off : Int)
deriving DecidableEq, Repr

end Sys2Proof
end

