-- ==== Sys2Proof/WellFormed.lean ====
section
/-! DEFINITION. Which instructions the assembler can encode: the ranges and the alignment of the signed
operands (spec/30_encoding.md R105, R106). Register numbers, the 20-bit operand of `lui` and `auipc` and the
vector are in range by their types. -/

namespace Sys2Proof

/-- A signed 15-bit operand, a byte offset or an immediate: -16384 to 16383 (R105). -/
def fitsImm15 (v : Int) : Bool := decide (-16384 ≤ v) && decide (v ≤ 16383)

/-- A byte offset held divided by 4 in 15 bits: a multiple of 4, `-2^16` to `2^16 - 4` (R106). -/
def fitsJump15 (off : Int) : Bool := decide (off % 4 = 0) && decide (-65536 ≤ off) && decide (off ≤ 65532)

/-- A byte offset held divided by 4 in 20 bits: a multiple of 4, `-2^21` to `2^21 - 4` (R106). -/
def fitsJump20 (off : Int) : Bool := decide (off % 4 = 0) && decide (-2097152 ≤ off) && decide (off ≤ 2097148)

/-- The instruction has an encoding. -/
def Instr.wf : Instr → Bool
  | .syscall _ _ => true
  | .gsreg _ => true
  | .ssreg _ => true
  | .sysret => true
  | .copy _ _ _ => true
  | .swap _ _ _ => true
  | .fill _ _ _ => true
  | .through _ _ => true
  | .fromPtr _ _ => true
  | .popb _ _ => true
  | .poph _ _ => true
  | .pop _ _ => true
  | .pushb _ _ => true
  | .pushh _ _ => true
  | .push _ _ => true
  | .save _ _ _ => true
  | .restore _ _ _ => true
  | .exch _ _ => true
  | .jal _ off => fitsJump20 off
  | .lui _ _ => true
  | .auipc _ _ => true
  | .beq _ _ off => fitsJump15 off
  | .bne _ _ off => fitsJump15 off
  | .blt _ _ off => fitsJump15 off
  | .bge _ _ off => fitsJump15 off
  | .bltu _ _ off => fitsJump15 off
  | .bgeu _ _ off => fitsJump15 off
  | .jalr _ _ off => fitsJump15 off
  | .lb _ _ off => fitsImm15 off
  | .lbu _ _ off => fitsImm15 off
  | .lbd _ _ off => fitsImm15 off
  | .lbud _ _ off => fitsImm15 off
  | .lh _ _ off => fitsImm15 off
  | .lhu _ _ off => fitsImm15 off
  | .lhd _ _ off => fitsImm15 off
  | .lhud _ _ off => fitsImm15 off
  | .lw _ _ off => fitsImm15 off
  | .lwd _ _ off => fitsImm15 off
  | .muli _ _ imm => fitsImm15 imm
  | .mulih _ _ imm => fitsImm15 imm
  | .idivi _ _ imm => fitsImm15 imm
  | .addi _ _ imm => fitsImm15 imm
  | .subi _ _ imm => fitsImm15 imm
  | .ori _ _ imm => fitsImm15 imm
  | .andi _ _ imm => fitsImm15 imm
  | .xori _ _ imm => fitsImm15 imm
  | .shira _ _ imm => fitsImm15 imm
  | .shirl _ _ imm => fitsImm15 imm
  | .shill _ _ imm => fitsImm15 imm
  | .add _ _ _ => true
  | .sub _ _ _ => true
  | .idiv _ _ _ _ => true
  | .mul _ _ _ _ => true
  | .or _ _ _ => true
  | .and _ _ _ => true
  | .xor _ _ _ => true
  | .not _ _ => true
  | .ctz _ _ => true
  | .clz _ _ => true
  | .popcount _ _ => true
  | .shra _ _ _ => true
  | .shrl _ _ _ => true
  | .shll _ _ _ => true
  | .ror _ _ _ => true
  | .rol _ _ _ => true
  | .sb _ _ off => fitsImm15 off
  | .sbd _ _ off => fitsImm15 off
  | .sh _ _ off => fitsImm15 off
  | .shd _ _ off => fitsImm15 off
  | .sw _ _ off => fitsImm15 off
  | .swd _ _ off => fitsImm15 off

end Sys2Proof
end

