-- ==== Sys2Proof/Decode.lean ====
section
/-! DEFINITION. The decoder and, after it, the encoder (spec/30_encoding.md). A word selects its row by group
and opcode alone (R102); the row names the fields and the bits that must be zero (R103, R108, R121). -/

namespace Sys2Proof

/-- Field `a`, W[24:20] (R102). -/
def fieldA (w : Word) : RegNum := w.extractLsb' 20 5

/-- Field `b`, W[19:15] (R102). -/
def fieldB (w : Word) : RegNum := w.extractLsb' 15 5

/-- Field `c`, W[14:10] (R102). -/
def fieldC (w : Word) : RegNum := w.extractLsb' 10 5

/-- Field `d`, W[9:5] (R102). -/
def fieldD (w : Word) : RegNum := w.extractLsb' 5 5

/-- The 20-bit operand of `lui` and `auipc`, W[19:0] (R104). -/
def imm20 (w : Word) : BitVec 20 := w.extractLsb' 0 20

/-- The signed operand of W[14:0] (R105). -/
def imm15 (w : Word) : Int := (w.extractLsb' 0 15).toInt

/-- The byte offset of `jal`: four times the signed W[19:0] (R106). -/
def jump20 (w : Word) : Int := 4 * (w.extractLsb' 0 20).toInt

/-- The byte offset of a branch or `jalr`: four times the signed W[14:0] (R106). -/
def jump15 (w : Word) : Int := 4 * (w.extractLsb' 0 15).toInt

/-- The vector of `syscall`, W[7:0] (R107). -/
def vectorField (w : Word) : BitVec 8 := w.extractLsb' 0 8

/-- The group, W[31:29] (R102). -/
def groupField (w : Word) : BitVec 3 := w.extractLsb' 29 3

/-- The opcode, W[28:25] (R102). -/
def opcodeField (w : Word) : BitVec 4 := w.extractLsb' 25 4

/-- The opcode of `lw`, a named constant as R169 asks (spec/90_conflicts.md C1). -/
def opcLw : Nat := 0xa

/-- The opcode of `lwd`, a named constant as R169 asks (spec/90_conflicts.md C1). -/
def opcLwd : Nat := 0xb

/-- A row of the opcode map as read from a word: the instruction, and the bits of the word that must be
zero, `zeroWidth` of them from bit `zeroLow` up (R121). -/
structure Entry where
  instr : Instr
  zeroLow : Nat := 0
  zeroWidth : Nat := 0
deriving DecidableEq, Repr

/-- Why a word is no instruction. -/
inductive DecodeError where
  /-- The (group, opcode) pair is undefined (R120): the machine takes Illegal Instruction. -/
  | undefinedPair
  /-- A must-be-zero bit is 1 (R121): no meaning. -/
  | nonZeroField
  /-- Fewer than four bytes (R100). -/
  | tooShort
deriving DecidableEq, Repr

/-- The rows of R110 for T instructions, group 000 (spec/47_t.md). -/
def entryT (w : Word) (opcode : Nat) : Option Entry :=
  match opcode with
  | 0x2 => some { instr := .syscall (fieldA w) (vectorField w), zeroLow := 8, zeroWidth := 12 }
  | 0x3 => some { instr := .gsreg (fieldA w), zeroLow := 0, zeroWidth := 20 }
  | 0x4 => some { instr := .ssreg (fieldA w), zeroLow := 0, zeroWidth := 20 }
  | 0x6 => some { instr := .sysret, zeroLow := 0, zeroWidth := 25 }
  | _ => none

/-- The rows of R110 for M instructions, group 001 (spec/46_m.md). -/
def entryM (w : Word) (opcode : Nat) : Option Entry :=
  match opcode with
  | 0x0 => some { instr := .copy (fieldA w) (fieldB w) (fieldC w), zeroLow := 0, zeroWidth := 10 }
  | 0x1 => some { instr := .swap (fieldA w) (fieldB w) (fieldC w), zeroLow := 0, zeroWidth := 10 }
  | 0x2 => some { instr := .fill (fieldA w) (fieldB w) (fieldC w), zeroLow := 0, zeroWidth := 10 }
  | 0x3 => some { instr := .through (fieldA w) (fieldB w), zeroLow := 0, zeroWidth := 15 }
  | 0x4 => some { instr := .fromPtr (fieldA w) (fieldB w), zeroLow := 0, zeroWidth := 15 }
  | 0x5 => some { instr := .popb (fieldA w) (fieldB w), zeroLow := 0, zeroWidth := 15 }
  | 0x6 => some { instr := .poph (fieldA w) (fieldB w), zeroLow := 0, zeroWidth := 15 }
  | 0x7 => some { instr := .pop (fieldA w) (fieldB w), zeroLow := 0, zeroWidth := 15 }
  | 0x8 => some { instr := .pushb (fieldA w) (fieldB w), zeroLow := 0, zeroWidth := 15 }
  | 0x9 => some { instr := .pushh (fieldA w) (fieldB w), zeroLow := 0, zeroWidth := 15 }
  | 0xa => some { instr := .push (fieldA w) (fieldB w), zeroLow := 0, zeroWidth := 15 }
  | 0xb => some { instr := .save (fieldA w) (fieldB w) (fieldC w), zeroLow := 0, zeroWidth := 10 }
  | 0xc => some { instr := .restore (fieldA w) (fieldB w) (fieldC w), zeroLow := 0, zeroWidth := 10 }
  | 0xd => some { instr := .exch (fieldA w) (fieldB w), zeroLow := 0, zeroWidth := 15 }
  | _ => none

/-- The rows of R110 for J and U instructions, group 010 (spec/40_u_j.md). -/
def entryUJ (w : Word) (opcode : Nat) : Option Entry :=
  match opcode with
  | 0x0 => some { instr := .jal (fieldA w) (jump20 w) }
  | 0x1 => some { instr := .lui (fieldA w) (imm20 w) }
  | 0x2 => some { instr := .auipc (fieldA w) (imm20 w) }
  | _ => none

/-- The rows of R110 for B instructions, group 011 (spec/41_b.md). -/
def entryB (w : Word) (opcode : Nat) : Option Entry :=
  match opcode with
  | 0x0 => some { instr := .beq (fieldA w) (fieldB w) (jump15 w) }
  | 0x1 => some { instr := .bne (fieldA w) (fieldB w) (jump15 w) }
  | 0x2 => some { instr := .blt (fieldA w) (fieldB w) (jump15 w) }
  | 0x3 => some { instr := .bge (fieldA w) (fieldB w) (jump15 w) }
  | 0x4 => some { instr := .bltu (fieldA w) (fieldB w) (jump15 w) }
  | 0x5 => some { instr := .bgeu (fieldA w) (fieldB w) (jump15 w) }
  | _ => none

/-- The rows of R110 for `jalr` and the loads, group 100 (spec/42_i_jalr_loads.md). -/
def entryL (w : Word) (opcode : Nat) : Option Entry :=
  match opcode with
  | 0x1 => some { instr := .jalr (fieldA w) (fieldB w) (jump15 w) }
  | 0x2 => some { instr := .lb (fieldA w) (fieldB w) (imm15 w) }
  | 0x3 => some { instr := .lbu (fieldA w) (fieldB w) (imm15 w) }
  | 0x4 => some { instr := .lbd (fieldA w) (fieldB w) (imm15 w) }
  | 0x5 => some { instr := .lbud (fieldA w) (fieldB w) (imm15 w) }
  | 0x6 => some { instr := .lh (fieldA w) (fieldB w) (imm15 w) }
  | 0x7 => some { instr := .lhu (fieldA w) (fieldB w) (imm15 w) }
  | 0x8 => some { instr := .lhd (fieldA w) (fieldB w) (imm15 w) }
  | 0x9 => some { instr := .lhud (fieldA w) (fieldB w) (imm15 w) }
  | n =>
    if n = opcLw then some { instr := .lw (fieldA w) (fieldB w) (imm15 w) }
    else if n = opcLwd then some { instr := .lwd (fieldA w) (fieldB w) (imm15 w) }
    else none

/-- The rows of R110 for arithmetic with an immediate, group 101 (spec/43_i_arith.md). -/
def entryI (w : Word) (opcode : Nat) : Option Entry :=
  match opcode with
  | 0x0 => some { instr := .muli (fieldA w) (fieldB w) (imm15 w) }
  | 0x1 => some { instr := .mulih (fieldA w) (fieldB w) (imm15 w) }
  | 0x2 => some { instr := .idivi (fieldA w) (fieldB w) (imm15 w) }
  | 0x3 => some { instr := .addi (fieldA w) (fieldB w) (imm15 w) }
  | 0x4 => some { instr := .subi (fieldA w) (fieldB w) (imm15 w) }
  | 0x5 => some { instr := .ori (fieldA w) (fieldB w) (imm15 w) }
  | 0x6 => some { instr := .andi (fieldA w) (fieldB w) (imm15 w) }
  | 0x7 => some { instr := .xori (fieldA w) (fieldB w) (imm15 w) }
  | 0x8 => some { instr := .shira (fieldA w) (fieldB w) (imm15 w) }
  | 0x9 => some { instr := .shirl (fieldA w) (fieldB w) (imm15 w) }
  | 0xa => some { instr := .shill (fieldA w) (fieldB w) (imm15 w) }
  | _ => none

/-- The rows of R110 for R instructions, group 110 (spec/45_r.md). -/
def entryR (w : Word) (opcode : Nat) : Option Entry :=
  match opcode with
  | 0x0 => some { instr := .add (fieldA w) (fieldB w) (fieldC w), zeroLow := 0, zeroWidth := 10 }
  | 0x1 => some { instr := .sub (fieldA w) (fieldB w) (fieldC w), zeroLow := 0, zeroWidth := 10 }
  | 0x2 => some { instr := .idiv (fieldA w) (fieldB w) (fieldC w) (fieldD w), zeroLow := 0, zeroWidth := 5 }
  | 0x3 => some { instr := .mul (fieldA w) (fieldB w) (fieldC w) (fieldD w), zeroLow := 0, zeroWidth := 5 }
  | 0x4 => some { instr := .or (fieldA w) (fieldB w) (fieldC w), zeroLow := 0, zeroWidth := 10 }
  | 0x5 => some { instr := .and (fieldA w) (fieldB w) (fieldC w), zeroLow := 0, zeroWidth := 10 }
  | 0x6 => some { instr := .xor (fieldA w) (fieldB w) (fieldC w), zeroLow := 0, zeroWidth := 10 }
  | 0x7 => some { instr := .not (fieldA w) (fieldB w), zeroLow := 0, zeroWidth := 15 }
  | 0x8 => some { instr := .ctz (fieldA w) (fieldB w), zeroLow := 0, zeroWidth := 15 }
  | 0x9 => some { instr := .clz (fieldA w) (fieldB w), zeroLow := 0, zeroWidth := 15 }
  | 0xa => some { instr := .popcount (fieldA w) (fieldB w), zeroLow := 0, zeroWidth := 15 }
  | 0xb => some { instr := .shra (fieldA w) (fieldB w) (fieldC w), zeroLow := 0, zeroWidth := 10 }
  | 0xc => some { instr := .shrl (fieldA w) (fieldB w) (fieldC w), zeroLow := 0, zeroWidth := 10 }
  | 0xd => some { instr := .shll (fieldA w) (fieldB w) (fieldC w), zeroLow := 0, zeroWidth := 10 }
  | 0xe => some { instr := .ror (fieldA w) (fieldB w) (fieldC w), zeroLow := 0, zeroWidth := 10 }
  | 0xf => some { instr := .rol (fieldA w) (fieldB w) (fieldC w), zeroLow := 0, zeroWidth := 10 }
  | _ => none

/-- The rows of R110 for S instructions, group 111 (spec/44_s.md). -/
def entryS (w : Word) (opcode : Nat) : Option Entry :=
  match opcode with
  | 0x0 => some { instr := .sb (fieldA w) (fieldB w) (imm15 w) }
  | 0x1 => some { instr := .sbd (fieldA w) (fieldB w) (imm15 w) }
  | 0x2 => some { instr := .sh (fieldA w) (fieldB w) (imm15 w) }
  | 0x3 => some { instr := .shd (fieldA w) (fieldB w) (imm15 w) }
  | 0x4 => some { instr := .sw (fieldA w) (fieldB w) (imm15 w) }
  | 0x5 => some { instr := .swd (fieldA w) (fieldB w) (imm15 w) }
  | _ => none

/-- The row of the opcode map that a word selects (R110). -/
def entryOf (w : Word) : Option Entry :=
  match (groupField w).toNat with
  | 0 => entryT w (opcodeField w).toNat
  | 1 => entryM w (opcodeField w).toNat
  | 2 => entryUJ w (opcodeField w).toNat
  | 3 => entryB w (opcodeField w).toNat
  | 4 => entryL w (opcodeField w).toNat
  | 5 => entryI w (opcodeField w).toNat
  | 6 => entryR w (opcodeField w).toNat
  | 7 => entryS w (opcodeField w).toNat
  | _ => none

/-- The decoding procedure of R112: the pair (R120), then the must-be-zero bits (R121), which
`MBZ_POLICY` treats. -/
def decode (w : Word) : Except DecodeError Instr :=
  match entryOf w with
  | none => .error .undefinedPair
  | some e =>
    if w.extractLsb' e.zeroLow e.zeroWidth = 0 then .ok e.instr
    else
      match Config.mbzPolicy with
      | .refuse => .error .nonZeroField
      | .ignore => .ok e.instr
      | .illegal => .error .undefinedPair

/-- The bytes of an instruction word in rising addresses, W[31:24] first (R100). -/
def wordBytes (w : Word) : List Byte :=
  [w.extractLsb' 24 8, w.extractLsb' 16 8, w.extractLsb' 8 8, w.extractLsb' 0 8]

/-- Decode the instruction at the head of a list of bytes and give the bytes after it. -/
def decodeBytes : List Byte → Except DecodeError (Instr × List Byte)
  | b0 :: b1 :: b2 :: b3 :: rest =>
    match decode (b0 ++ b1 ++ b2 ++ b3) with
    | .ok i => .ok (i, rest)
    | .error e => .error e
  | _ => .error .tooShort

/-- The instruction the decoder reads from an instruction whose bits are `w`, of which the opcode table gives
`nbits`, every bit above them being 0. -/
def decodeTableWord (nbits w : Nat) : Option Instr :=
  match decodeBytes (wordBytes (BitVec.ofNat 32 (w % 2 ^ nbits))) with
  | .ok (i, _) => some i
  | .error _ => none

/-! The encoder. -/

/-- The seven selecting bits, group then opcode (R110). -/
def Instr.selector : Instr → BitVec 7
  | .syscall _ _ => 0x02
  | .gsreg _ => 0x03
  | .ssreg _ => 0x04
  | .sysret => 0x06
  | .copy _ _ _ => 0x10
  | .swap _ _ _ => 0x11
  | .fill _ _ _ => 0x12
  | .through _ _ => 0x13
  | .fromPtr _ _ => 0x14
  | .popb _ _ => 0x15
  | .poph _ _ => 0x16
  | .pop _ _ => 0x17
  | .pushb _ _ => 0x18
  | .pushh _ _ => 0x19
  | .push _ _ => 0x1a
  | .save _ _ _ => 0x1b
  | .restore _ _ _ => 0x1c
  | .exch _ _ => 0x1d
  | .jal _ _ => 0x20
  | .lui _ _ => 0x21
  | .auipc _ _ => 0x22
  | .beq _ _ _ => 0x30
  | .bne _ _ _ => 0x31
  | .blt _ _ _ => 0x32
  | .bge _ _ _ => 0x33
  | .bltu _ _ _ => 0x34
  | .bgeu _ _ _ => 0x35
  | .jalr _ _ _ => 0x41
  | .lb _ _ _ => 0x42
  | .lbu _ _ _ => 0x43
  | .lbd _ _ _ => 0x44
  | .lbud _ _ _ => 0x45
  | .lh _ _ _ => 0x46
  | .lhu _ _ _ => 0x47
  | .lhd _ _ _ => 0x48
  | .lhud _ _ _ => 0x49
  | .lw _ _ _ => BitVec.ofNat 7 (0x40 + opcLw)
  | .lwd _ _ _ => BitVec.ofNat 7 (0x40 + opcLwd)
  | .muli _ _ _ => 0x50
  | .mulih _ _ _ => 0x51
  | .idivi _ _ _ => 0x52
  | .addi _ _ _ => 0x53
  | .subi _ _ _ => 0x54
  | .ori _ _ _ => 0x55
  | .andi _ _ _ => 0x56
  | .xori _ _ _ => 0x57
  | .shira _ _ _ => 0x58
  | .shirl _ _ _ => 0x59
  | .shill _ _ _ => 0x5a
  | .add _ _ _ => 0x60
  | .sub _ _ _ => 0x61
  | .idiv _ _ _ _ => 0x62
  | .mul _ _ _ _ => 0x63
  | .or _ _ _ => 0x64
  | .and _ _ _ => 0x65
  | .xor _ _ _ => 0x66
  | .not _ _ => 0x67
  | .ctz _ _ => 0x68
  | .clz _ _ => 0x69
  | .popcount _ _ => 0x6a
  | .shra _ _ _ => 0x6b
  | .shrl _ _ _ => 0x6c
  | .shll _ _ _ => 0x6d
  | .ror _ _ _ => 0x6e
  | .rol _ _ _ => 0x6f
  | .sb _ _ _ => 0x70
  | .sbd _ _ _ => 0x71
  | .sh _ _ _ => 0x72
  | .shd _ _ _ => 0x73
  | .sw _ _ _ => 0x74
  | .swd _ _ _ => 0x75

/-- ENCODING I (R101). -/
def formatI (sel : BitVec 7) (a : RegNum) (imm : BitVec 20) : Word := sel ++ a ++ imm

/-- ENCODING II (R101). -/
def formatII (sel : BitVec 7) (a b : RegNum) (imm : BitVec 15) : Word := sel ++ a ++ b ++ imm

/-- ENCODING III (R101). -/
def formatIII (sel : BitVec 7) (a b c : RegNum) : Word := sel ++ a ++ b ++ c ++ 0#10

/-- ENCODING IV (R101). -/
def formatIV (sel : BitVec 7) (a b c d : RegNum) : Word := sel ++ a ++ b ++ c ++ d ++ 0#5

/-- ENCODING V (R101). -/
def formatV (sel : BitVec 7) (a : RegNum) (vector : BitVec 8) : Word := sel ++ a ++ 0#12 ++ vector

/-- The word of an instruction (R101 to R108): the fields of its format, unused ones zero. -/
def encode (i : Instr) : Word :=
  match i with
  | .syscall rd vector => formatV i.selector rd vector
  | .gsreg rd => formatV i.selector rd 0
  | .ssreg rs1 => formatV i.selector rs1 0
  | .sysret => formatV i.selector 0 0
  | .copy src dest len => formatIII i.selector src dest len
  | .swap buff1 buff2 len => formatIII i.selector buff1 buff2 len
  | .fill buff n byte => formatIII i.selector buff n byte
  | .through rd rs1 => formatII i.selector rd rs1 0
  | .fromPtr rd rs1 => formatII i.selector rd rs1 0
  | .popb rd sp => formatII i.selector rd sp 0
  | .poph rd sp => formatII i.selector rd sp 0
  | .pop rd sp => formatII i.selector rd sp 0
  | .pushb rd sp => formatII i.selector rd sp 0
  | .pushh rd sp => formatII i.selector rd sp 0
  | .push rd sp => formatII i.selector rd sp 0
  | .save first last dest => formatIII i.selector first last dest
  | .restore first last src => formatIII i.selector first last src
  | .exch rs1 rs2 => formatII i.selector rs1 rs2 0
  | .jal rd off => formatI i.selector rd (BitVec.ofInt 20 (off / 4))
  | .lui rd imm => formatI i.selector rd imm
  | .auipc rd imm => formatI i.selector rd imm
  | .beq rs1 rs2 off => formatII i.selector rs1 rs2 (BitVec.ofInt 15 (off / 4))
  | .bne rs1 rs2 off => formatII i.selector rs1 rs2 (BitVec.ofInt 15 (off / 4))
  | .blt rs1 rs2 off => formatII i.selector rs1 rs2 (BitVec.ofInt 15 (off / 4))
  | .bge rs1 rs2 off => formatII i.selector rs1 rs2 (BitVec.ofInt 15 (off / 4))
  | .bltu rs1 rs2 off => formatII i.selector rs1 rs2 (BitVec.ofInt 15 (off / 4))
  | .bgeu rs1 rs2 off => formatII i.selector rs1 rs2 (BitVec.ofInt 15 (off / 4))
  | .jalr rd rs1 off => formatII i.selector rd rs1 (BitVec.ofInt 15 (off / 4))
  | .lb rd rs1 off => formatII i.selector rd rs1 (BitVec.ofInt 15 off)
  | .lbu rd rs1 off => formatII i.selector rd rs1 (BitVec.ofInt 15 off)
  | .lbd rd rs1 off => formatII i.selector rd rs1 (BitVec.ofInt 15 off)
  | .lbud rd rs1 off => formatII i.selector rd rs1 (BitVec.ofInt 15 off)
  | .lh rd rs1 off => formatII i.selector rd rs1 (BitVec.ofInt 15 off)
  | .lhu rd rs1 off => formatII i.selector rd rs1 (BitVec.ofInt 15 off)
  | .lhd rd rs1 off => formatII i.selector rd rs1 (BitVec.ofInt 15 off)
  | .lhud rd rs1 off => formatII i.selector rd rs1 (BitVec.ofInt 15 off)
  | .lw rd rs1 off => formatII i.selector rd rs1 (BitVec.ofInt 15 off)
  | .lwd rd rs1 off => formatII i.selector rd rs1 (BitVec.ofInt 15 off)
  | .muli rd rs1 imm => formatII i.selector rd rs1 (BitVec.ofInt 15 imm)
  | .mulih rd rs1 imm => formatII i.selector rd rs1 (BitVec.ofInt 15 imm)
  | .idivi rd rs1 imm => formatII i.selector rd rs1 (BitVec.ofInt 15 imm)
  | .addi rd rs1 imm => formatII i.selector rd rs1 (BitVec.ofInt 15 imm)
  | .subi rd rs1 imm => formatII i.selector rd rs1 (BitVec.ofInt 15 imm)
  | .ori rd rs1 imm => formatII i.selector rd rs1 (BitVec.ofInt 15 imm)
  | .andi rd rs1 imm => formatII i.selector rd rs1 (BitVec.ofInt 15 imm)
  | .xori rd rs1 imm => formatII i.selector rd rs1 (BitVec.ofInt 15 imm)
  | .shira rd rs1 imm => formatII i.selector rd rs1 (BitVec.ofInt 15 imm)
  | .shirl rd rs1 imm => formatII i.selector rd rs1 (BitVec.ofInt 15 imm)
  | .shill rd rs1 imm => formatII i.selector rd rs1 (BitVec.ofInt 15 imm)
  | .add rd rs1 rs2 => formatIII i.selector rd rs1 rs2
  | .sub rd rs1 rs2 => formatIII i.selector rd rs1 rs2
  | .idiv rd rd2 rs1 rs2 => formatIV i.selector rd rd2 rs1 rs2
  | .mul rd rd2 rs1 rs2 => formatIV i.selector rd rd2 rs1 rs2
  | .or rd rs1 rs2 => formatIII i.selector rd rs1 rs2
  | .and rd rs1 rs2 => formatIII i.selector rd rs1 rs2
  | .xor rd rs1 rs2 => formatIII i.selector rd rs1 rs2
  | .not rd rs1 => formatIII i.selector rd rs1 0
  | .ctz rd rs1 => formatIII i.selector rd rs1 0
  | .clz rd rs1 => formatIII i.selector rd rs1 0
  | .popcount rd rs1 => formatIII i.selector rd rs1 0
  | .shra rd rs1 rs2 => formatIII i.selector rd rs1 rs2
  | .shrl rd rs1 rs2 => formatIII i.selector rd rs1 rs2
  | .shll rd rs1 rs2 => formatIII i.selector rd rs1 rs2
  | .ror rd rs1 rs2 => formatIII i.selector rd rs1 rs2
  | .rol rd rs1 rs2 => formatIII i.selector rd rs1 rs2
  | .sb rs1 rs2 off => formatII i.selector rs1 rs2 (BitVec.ofInt 15 off)
  | .sbd rs1 rs2 off => formatII i.selector rs1 rs2 (BitVec.ofInt 15 off)
  | .sh rs1 rs2 off => formatII i.selector rs1 rs2 (BitVec.ofInt 15 off)
  | .shd rs1 rs2 off => formatII i.selector rs1 rs2 (BitVec.ofInt 15 off)
  | .sw rs1 rs2 off => formatII i.selector rs1 rs2 (BitVec.ofInt 15 off)
  | .swd rs1 rs2 off => formatII i.selector rs1 rs2 (BitVec.ofInt 15 off)

/-- The bytes of an instruction in rising addresses. -/
def encodeBytes (i : Instr) : List Byte := wordBytes (encode i)

end Sys2Proof
end

