-- ==== Sys2Proof/Machine/Memory.lean ====
section
/-! DEFINITION. A memory as plain data: a list of (address, byte) pairs with rising addresses and no zero byte,
an unlisted address reading as zero (log 3). Multi-byte values are big-endian (spec/20_memory.md R54). -/

namespace Sys2Proof.Machine

/-- The contents of one of the two memories (spec/20_memory.md R50). -/
abbrev Memory := List Host.Cell

/-- The widths of a memory access (spec/20_memory.md R57). -/
inductive Size where
  | byte
  | half
  | word
deriving DecidableEq, Repr

/-- Bytes in an access of this width. -/
def Size.bytes : Size → Nat
  | .byte => 1
  | .half => 2
  | .word => 4

/-- What an address that nothing lists reads as. DESIGN CHOICE (log 3): zero; unsafe. -/
def Memory.blank : Byte := 0#8

/-- The byte at an address. -/
def Memory.read : Memory → Nat → Byte
  | [], _ => Memory.blank
  | (k, v) :: m, a => if k = a then v else Memory.read m a

/-- Put a cell before the first one of a higher address. -/
def Memory.insert : Memory → Nat → Byte → Memory
  | [], a, b => [(a, b)]
  | (k, v) :: m, a, b => if a < k then (a, b) :: (k, v) :: m else (k, v) :: Memory.insert m a b

/-- Write a byte, keeping the canonical form: the old cell goes, and a new one comes unless the byte is what an
unlisted address reads as. -/
def Memory.write (m : Memory) (a : Nat) (b : Byte) : Memory :=
  if b = Memory.blank then m.filter (fun c => c.1 ≠ a) else Memory.insert (m.filter (fun c => c.1 ≠ a)) a b

/-- The canonical form: addresses below `size` and strictly rising, no byte that an unlisted address has. -/
def Memory.wf (size : Nat) (m : Memory) : Bool :=
  m.all (fun c => decide (c.1 < size) && decide (c.2 ≠ Memory.blank)) && decide (m.Pairwise (fun c d => c.1 < d.1))

/-- The value of the bytes from address `a` up, the first byte the most significant (R54), as a word with zeros
above it. -/
def Memory.load (m : Memory) (a : Nat) : Size → Word
  | .byte => (Memory.read m a).setWidth 32
  | .half => (Memory.read m a ++ Memory.read m (a + 1)).setWidth 32
  | .word => Memory.read m a ++ Memory.read m (a + 1) ++ Memory.read m (a + 2) ++ Memory.read m (a + 3)

/-- Store the low bytes of `v` from address `a` up, the most significant first (R54, R59). -/
def Memory.store (m : Memory) (a : Nat) (size : Size) (v : Word) : Memory :=
  match size with
  | .byte => Memory.write m a (v.extractLsb' 0 8)
  | .half => Memory.write (Memory.write m a (v.extractLsb' 8 8)) (a + 1) (v.extractLsb' 0 8)
  | .word =>
    Memory.write
      (Memory.write (Memory.write (Memory.write m a (v.extractLsb' 24 8)) (a + 1) (v.extractLsb' 16 8)) (a + 2)
        (v.extractLsb' 8 8))
      (a + 3) (v.extractLsb' 0 8)

end Sys2Proof.Machine
end

