-- ==== Sys2Proof/Machine/State.lean ====
section
/-! DEFINITION. The state of the machine, plain data, and its value after reset (spec/10_state.md). -/

namespace Sys2Proof.Machine

/-- An interrupt request: its priority level and its vector (spec/10_state.md R35, spec/60_exceptions.md R320). -/
structure Request where
  priority : BitVec 3
  vector : BitVec 8
deriving DecidableEq, Repr

/-- One thing the device agent does between two steps (spec/93_implementation_defined.md U14; log 5). -/
inductive DeviceMove where
  /-- It raises an interrupt request (R320). -/
  | request (r : Request)
  /-- It changes a byte of a device port (spec/20_memory.md R58). -/
  | port (address : BitVec 16) (value : Byte)
deriving DecidableEq, Repr

/-- The state of the machine (spec/10_state.md section 1 to 4). -/
structure State where
  /-- `r1`, `r3` to `r31`, in this order (R20; 30 words, log 17). -/
  regs : Vector Word 30
  /-- The user bank of `r2` (R22). -/
  usp : Word
  /-- The supervisor bank of `r2` (R22). -/
  ssp : Word
  /-- The program counter (R24). -/
  pc : Word
  /-- The Processor Status Register (R26). -/
  psr : Word
  /-- A fault is being processed (R36). -/
  inFault : Bool
  /-- A double fault has stopped the CPU (R37). -/
  halted : Bool
  /-- The pending interrupt requests, a set held as a rising list (R35; log 8). -/
  pending : List Request
  /-- Main memory by physical address (R40). -/
  main : Memory
  /-- Data memory (R40). -/
  data : Memory
  /-- The model's own: what the device agent does before each coming step (log 5). -/
  schedule : List (List DeviceMove)
  /-- The parameter `DEVICE_REGION` (spec/00_scope.md R4, open): the ranges of data addresses, first and last, that are
  device ports beside 0 to 0x20; no step changes it (log 6). -/
  deviceRegion : List (Nat × Nat)
  /-- The model's own: how many draws of `Config.interruptDraw` were made (log 7). -/
  draws : Nat
deriving DecidableEq, Repr

/-- Why the machine has no further step. -/
inductive Fault where
  /-- A step of a halted machine (R37, spec/60_exceptions.md R315, U5 "stuck"): raised by `step`. Safe: only reset
  leaves this state. -/
  | halted
deriving DecidableEq, Repr

/-- Why the model gives an instruction word no effect. -/
inductive Refusal where
  /-- An instruction without a meaning: raised by an arm of `exec`. Safe. -/
  | notModelled (mnemonic : String)
  /-- A defined pair with a non-zero must-be-zero bit (spec/30_encoding.md R121, U4): raised by `step`. Safe. -/
  | nonZeroField
  /-- `copy` or `swap` of buffers that share a physical byte (spec/46_m.md R242, R243, U7): raised by their
  meanings. Safe. -/
  | overlappingBuffers
  /-- An M instruction that changes a page table entry its own translations use (spec/46_m.md R240): raised by
  the stores of M instructions. Safe. -/
  | ownPageTableChanged
  /-- The amount of a shift or rotation above 31 were `SHIFT_MASK5` false (U9): raised by both. Safe. -/
  | shiftAmount
  /-- `syscall` with a register of 256 or more were `SYSCALL_REG_WIDE` `refuse` (U6). Safe. -/
  | wideSyscall
deriving DecidableEq, Repr

/-- The value of `psr` after reset: supervisor, interrupts and MMU off, priority 0, IVT at 0xF800, PDT at 0xFF00
(R42). -/
def State.resetPsr : Word := 0x83EFF000

/-- The machine right after reset over the memories `MAIN_INIT` and `DATA_INIT` and the region `DEVICE_REGION`
(spec/70_reset_and_hazards.md R350): `pc` is entry 0 of the default vector table.
DESIGN CHOICE (log 1, 2): the registers the spec leaves unspecified are zero; unsafe. -/
def State.resetWith (mainInit dataInit : Memory) (region : List (Nat × Nat)) : State where
  regs := Vector.replicate 30 0
  usp := 0
  ssp := 0
  pc := Memory.load dataInit 0xF800 .word
  psr := State.resetPsr
  inFault := false
  halted := false
  pending := []
  main := mainInit
  data := dataInit
  schedule := []
  deviceRegion := region
  draws := 0

/-- The machine right after reset with nothing loaded. DESIGN CHOICE (log 3): both memories zero; unsafe. DESIGN
CHOICE (log 6): the least device region. -/
def State.reset : State := State.resetWith [] [] []

end Sys2Proof.Machine
end

