-- ==== Sys2Proof/Machine/Ops.lean ====
section
/-! DEFINITION. The named operations over registers, `psr` and memory, the taking of an exception and the
return from one, and the device agent's turn. -/

namespace Sys2Proof.Machine

/-! The fields of `psr` (spec/10_state.md R26). -/

/-- `psr.s`, bit 31: supervisor mode (R27). -/
def State.supervisor (s : State) : Bool := s.psr.getLsbD 31

/-- `psr.irq`, bit 30: interrupt enable (R28). -/
def State.irqEnabled (s : State) : Bool := s.psr.getLsbD 30

/-- `psr.mmu`, bit 29: MMU enable (R29). -/
def State.mmuOn (s : State) : Bool := s.psr.getLsbD 29

/-- `psr.p`, bits 28:26: the CPU's priority (R30). -/
def State.priority (s : State) : BitVec 3 := s.psr.extractLsb' 26 3

/-- `psr.ivt`, bits 25:20 (R31). -/
def State.ivtField (s : State) : BitVec 6 := s.psr.extractLsb' 20 6

/-- `psr.pdt`, bits 19:12 (R32). -/
def State.pdtField (s : State) : BitVec 8 := s.psr.extractLsb' 12 8

/-- `psr.res`, bits 11:0 (R33). -/
def State.resField (s : State) : BitVec 12 := s.psr.extractLsb' 0 12

/-- A status word with `s` set to 1 (R27). -/
def psrSupervisor (psr : Word) : Word := 1#1 ++ psr.extractLsb' 0 31

/-- A status word with another `p` (R30). -/
def psrWithPriority (psr : Word) (p : BitVec 3) : Word := psr.extractLsb' 29 3 ++ p ++ psr.extractLsb' 0 26

/-- Write all of `psr`, as `ssreg` and `sysret` do (R34): every bit is kept, the reserved ones while
`PSR_RES_STORED` (R33). -/
def State.writePsr (s : State) (v : Word) : State :=
  { s with psr :=
      if Config.psrResStored then v else v.extractLsb' 12 20 ++ Config.unstoredReserved (v.extractLsb' 0 12) }

/-! General registers (spec/10_state.md R20 to R22, spec/00_scope.md R6). -/

/-- Where `State.regs` holds `r1`, `r3`, ..., `r31`. -/
def regSlot (i : RegNum) : Fin 30 := Fin.ofNat 30 (if i = 1#5 then 0 else i.toNat - 2)

/-- `x[i]`: zero for `r0`, the stack pointer of the current mode for `r2`. -/
def State.reg (s : State) (i : RegNum) : Word :=
  if i = 0#5 then 0#32
  else if i = 2#5 then (if s.supervisor then s.ssp else s.usp)
  else s.regs[regSlot i]

/-- `x[i] <- v`: nothing for `r0`, the stack pointer of the current mode for `r2`. -/
def State.setReg (s : State) (i : RegNum) (v : Word) : State :=
  if i = 0#5 then s
  else if i = 2#5 then (if s.supervisor then { s with ssp := v } else { s with usp := v })
  else { s with regs := s.regs.set (regSlot i) v }

/-! What ends an operation early. -/

/-- The seven hardware exceptions a program can raise (spec/60_exceptions.md R302), all faults. -/
inductive Exc where
  | busError
  | addressError
  | illegalInstruction
  | divisionByZero
  | privilegeViolation
  | pageFault
  | accessViolation
deriving DecidableEq, Repr

/-- The vector of an exception (R302). -/
def Exc.vector : Exc → BitVec 8
  | .busError => 0x02
  | .addressError => 0x03
  | .illegalInstruction => 0x04
  | .divisionByZero => 0x05
  | .privilegeViolation => 0x06
  | .pageFault => 0x07
  | .accessViolation => 0x08

/-- An operation ends early by raising an exception (spec/00_scope.md R9) or by a refusal of the model. -/
inductive Stop where
  | raise (e : Exc)
  | refuse (r : Refusal)
deriving DecidableEq, Repr

/-- What an access is for (spec/20_memory.md R70). -/
inductive AccessKind where
  | read
  | write
  | fetch
deriving DecidableEq, Repr

/-! The access primitives (spec/20_memory.md section 4 and 5). -/

/-- The address is a multiple of the access size (R55). -/
def aligned (va : Word) (size : Size) : Bool := va.toNat % size.bytes = 0

/-- `PhysRead` (R59). -/
def State.physRead (s : State) (pa : Nat) (size : Size) : Except Stop Word :=
  if pa + size.bytes ≤ Config.memSize then .ok (Memory.load s.main pa size) else .error (.raise .busError)

/-- `PhysWrite` (R59), of an address already checked. -/
def State.physWrite (s : State) (pa : Nat) (size : Size) (v : Word) : State :=
  { s with main := Memory.store s.main pa size v }

/-- The page directory entry of a virtual address: the halfword of data memory at
`psr.pdt * 256 + va[23:22] * 2` (R70, R73). -/
def State.pde (s : State) (va : Word) : Word :=
  Memory.load s.data
    (s.pdtField.toNat * Config.pdtScale + (va.extractLsb' 22 2).toNat * Config.entrySize) .half

/-- The physical address of the page table entry of a virtual address (R70, R74). -/
def State.pteAddr (s : State) (va : Word) : Nat :=
  ((s.pde va).extractLsb' 4 12).toNat * Config.pageSize + (va.extractLsb' 12 10).toNat * Config.entrySize

/-- The physical address a page table entry gives a virtual address: the page's address with the offset (R70). -/
def framed (pte va : Word) : Nat := (pte.extractLsb' 4 12).toNat * Config.pageSize + (va.extractLsb' 0 12).toNat

/-- A checked access: its physical address and, where its page's dirty bit must be set, the address and the new
value of the page table entry (R75). -/
structure Translation where
  phys : Nat
  dirty : Option (Nat × Word)
deriving DecidableEq, Repr

/-- `Translate` (R70 to R75). -/
def State.translate (s : State) (va : Word) (kind : AccessKind) (size : Size) : Except Stop Translation :=
  match s.physRead (s.pteAddr va) .half with
  | .error e => .error e
  | .ok pte =>
    if pte.getLsbD 0 = false then .error (.raise .pageFault)
    else if s.supervisor = false ∧ kind = .write ∧ pte.getLsbD 3 = false then .error (.raise .accessViolation)
    else if s.supervisor = false ∧ kind = .fetch ∧ pte.getLsbD 2 = false then .error (.raise .accessViolation)
    else if framed pte va + size.bytes > Config.memSize then .error (.raise .busError)
    else
      .ok { phys := framed pte va
            dirty := if kind = .write ∧ pte.getLsbD 1 = false then some (s.pteAddr va, pte ||| 2) else none }

/-- Every check of one access of main memory, in the order of R60 to R62 (spec/60_exceptions.md R306). -/
def State.locate (s : State) (va : Word) (kind : AccessKind) (size : Size) : Except Stop Translation :=
  if aligned va size = false ∧ (Config.alignCheck = true ∨ kind = .fetch) then .error (.raise .addressError)
  else if va.toNat + size.bytes > Config.mainSpace then .error (.raise .busError)
  else if s.mmuOn then s.translate va kind size
  else if va.toNat + size.bytes > Config.memSize then .error (.raise .busError)
  else .ok { phys := va.toNat, dirty := none }

/-- The write-back of a dirty bit (R75). -/
def State.setDirty (s : State) (t : Translation) : State :=
  match t.dirty with
  | none => s
  | some (a, pte) => s.physWrite a .half pte

/-- The page table entries that the translation of an access uses (none with the MMU off). -/
def State.entriesOf (s : State) (va : Word) (size : Size) : List Nat :=
  if s.mmuOn then [s.pteAddr va, s.pteAddr (va + BitVec.ofNat 32 (size.bytes - 1))] else []

/-- A store changes the value of one of these page table entries (spec/46_m.md R240; log 14). -/
def State.changesEntry (s t : State) (entries : List Nat) : Bool :=
  entries.any (fun a => Memory.load s.main a .half != Memory.load t.main a .half)

/-- A read of one located piece. -/
def State.readPiece (s : State) (va : Word) (size : Size) : Except Stop Word :=
  match s.locate va .read size with
  | .error e => .error e
  | .ok t => .ok (Memory.load s.main t.phys size)

/-- A write of one located piece: the dirty bit, then the bytes, refused where the bytes change one of the
`watched` page table entries. -/
def State.writePiece (s : State) (watched : List Nat) (va : Word) (size : Size) (v : Word) : Except Stop State :=
  match s.locate va .write size with
  | .error e => .error e
  | .ok t =>
    if (s.setDirty t).changesEntry ((s.setDirty t).physWrite t.phys size v) watched then
      .error (.refuse .ownPageTableChanged)
    else .ok ((s.setDirty t).physWrite t.phys size v)

/-- The access is made in one piece: it is aligned, or `ALIGN_CHECK` stops it (R55). -/
def inOnePiece (va : Word) (size : Size) : Bool := Config.alignCheck || aligned va size

/-- The bytes of a misaligned read, one access each, the first the most significant (R55). -/
def State.readBytes (s : State) (va : Word) : Nat → Word → Except Stop Word
  | 0, acc => .ok acc
  | n + 1, acc =>
    match s.readPiece va .byte with
    | .error e => .error e
    | .ok b => State.readBytes s (va + 1) n (acc <<< 8 ||| b)

/-- The bytes of a misaligned write of the low `n` bytes of `v`, one access each (R55). -/
def State.writeBytes (watched : List Nat) (v : Word) : Nat → Word → State → Except Stop State
  | 0, _, s => .ok s
  | n + 1, va, s =>
    match s.writePiece watched va .byte (v >>> (8 * n)) with
    | .error e => .error e
    | .ok s' => State.writeBytes watched v n (va + 1) s'

/-- `MemRead` (R60). -/
def State.memRead (s : State) (va : Word) (size : Size) : Except Stop Word :=
  if inOnePiece va size then s.readPiece va size else s.readBytes va size.bytes 0

/-- `MemWrite` of an M instruction (R61, spec/46_m.md R240), which must not change the `watched` entries. -/
def State.memWriteWatching (s : State) (watched : List Nat) (va : Word) (size : Size) (v : Word) :
    Except Stop State :=
  if inOnePiece va size then s.writePiece watched va size v else State.writeBytes watched v size.bytes va s

/-- `MemWrite` (R61). -/
def State.memWrite (s : State) (va : Word) (size : Size) (v : Word) : Except Stop State :=
  s.memWriteWatching [] va size v

/-- Every check of a read, none of its effects. -/
def State.checkRead (s : State) (va : Word) (size : Size) : Except Stop Unit :=
  match s.memRead va size with
  | .error e => .error e
  | .ok _ => .ok ()

/-- Every check of a write, none of its effects. -/
def State.checkWrite (s : State) (va : Word) (size : Size) : Except Stop Unit :=
  match s.memWrite va size 0 with
  | .error e => .error e
  | .ok _ => .ok ()

/-- `Fetch` (R62). -/
def State.fetch (s : State) : Except Stop Word :=
  match s.locate s.pc .fetch .word with
  | .error e => .error e
  | .ok t => .ok (Memory.load s.main t.phys .word)

/-- The checks of an access of data memory (R63). -/
def dataStop (va : Word) (size : Size) : Option Exc :=
  if aligned va size = false ∧ Config.alignCheck = true then some .addressError
  else if va.toNat + size.bytes > Config.dataSize then some .busError
  else none

/-- `DataRead` (R63). -/
def State.dataRead (s : State) (va : Word) (size : Size) : Except Stop Word :=
  match dataStop va size with
  | some e => .error (.raise e)
  | none => .ok (Memory.load s.data va.toNat size)

/-- `DataWrite` (R63). -/
def State.dataWrite (s : State) (va : Word) (size : Size) (v : Word) : Except Stop State :=
  match dataStop va size with
  | some e => .error (.raise e)
  | none => .ok { s with data := Memory.store s.data va.toNat size v }

/-- The physical address of a byte of main memory whose access is allowed (R70). -/
def State.physAddr (s : State) (va : Word) : Nat :=
  if s.mmuOn then framed (Memory.load s.main (s.pteAddr va) .half) va else va.toNat

/-! Taking an exception and returning from one (spec/60_exceptions.md section 5). -/

/-- What starts a trap entry (R310). -/
inductive TrapKind where
  | interrupt (priority : BitVec 3)
  | fault
  | trap
deriving DecidableEq, Repr

/-- The word of the interrupt vector table for a vector: data address `psr.ivt * 1024 + 4 * v` (R311). -/
def State.vectorEntry (s : State) (v : BitVec 8) : Word :=
  Memory.load s.data (s.ivtField.toNat * Config.ivtScale + v.toNat * Config.ivtEntrySize) .word

/-- A double fault: the CPU halts and nothing else changes (R315 (c)). -/
def State.doubleFault (s : State) : State := { s with halted := true }

/-- The two pushes of trap entry as supervisor writes, both checked before either is made (R310, R314). -/
def State.pushFrame (s : State) (savePc : Word) : Except Stop State := do
  let sup := { s with psr := psrSupervisor s.psr }
  sup.checkWrite (s.ssp - 4) .word
  sup.checkWrite (s.ssp - 8) .word
  let s1 ← sup.memWrite (s.ssp - 4) .word s.psr
  s1.memWrite (s.ssp - 8) .word savePc

/-- The status word after a trap entry: supervisor, and an interrupt's priority (R310, R313). -/
def TrapKind.enterPsr (k : TrapKind) (psr : Word) : Word :=
  match k with
  | .interrupt p => psrWithPriority (psrSupervisor psr) p
  | .fault => psrSupervisor psr
  | .trap => psrSupervisor psr

/-- Trap entry (R310): the frame on the supervisor stack, supervisor mode, the handler's address from the
vector table; a double fault (R315) if a fault comes while one is processed or if a push fails. -/
def State.trapEntry (s : State) (k : TrapKind) (v : BitVec 8) (savePc : Word) : State :=
  if k = .fault ∧ s.inFault = true then s.doubleFault
  else
    match s.pushFrame savePc with
    | .error _ => s.doubleFault
    | .ok f =>
      { f with
        inFault := s.inFault || decide (k = .fault)
        ssp := s.ssp - 8
        psr := k.enterPsr s.psr
        pc := s.vectorEntry v }

/-- The return of `sysret` (R318, spec/47_t.md R273): pop `pc`, then `psr`, and end the fault's processing. -/
def State.trapReturn (s : State) : Except Stop State := do
  let newPc ← s.memRead s.ssp .word
  let newPsr ← s.memRead (s.ssp + 4) .word
  .ok (({ s with ssp := s.ssp + 8, pc := newPc, inFault := false } : State).writePsr newPsr)

/-- The address of the executing instruction, saved by a fault (R303). -/
def State.instrAddr (s : State) : Word := s.pc - Config.pcBase

/-- The outcome of an operation begun in `s`: its next state, or the fault it raises, taken in `s` with `savePc`
(none of the operation's writes made, spec/00_scope.md R9), or the refusal. -/
def State.settle (s : State) (savePc : Word) : Except Stop State → Host.Outcome State Fault Refusal
  | .ok t => .next t
  | .error (.raise e) => .next (s.trapEntry .fault e.vector savePc)
  | .error (.refuse r) => .refused r

/-- The outcome of an instruction whose effect is `r`: a fault saves the instruction's address (R303). -/
def State.finish (s : State) (r : Except Stop State) : Host.Outcome State Fault Refusal :=
  s.settle s.instrAddr r

/-- The privilege check, before any operand is read (R330, R345). -/
def State.privileged (s : State) (r : Except Stop State) : Except Stop State :=
  if s.supervisor then r else .error (.raise .privilegeViolation)

/-! Interrupts and the device agent (spec/60_exceptions.md section 4). -/

/-- The rank of a request in the list of pending ones. -/
def Request.rank (r : Request) : Nat := r.priority.toNat * 256 + r.vector.toNat

/-- Put a request before the first one of a higher rank. -/
def insertRequest (r : Request) : List Request → List Request
  | [] => [r]
  | q :: qs => if r.rank < q.rank then r :: q :: qs else q :: insertRequest r qs

/-- Add a request to the set of pending ones (R35; log 8). -/
def addRequest (r : Request) (l : List Request) : List Request := insertRequest r (l.filter (fun q => q ≠ r))

/-- The canonical form of the set of pending requests: strictly rising ranks. -/
def pendingWf (l : List Request) : Bool := decide (l.Pairwise (fun q r => q.rank < r.rank))

/-- An address of `DEVICE_REGION`: a port that every region contains, or one of the machine's own (spec/20_memory.md
R58; log 6). -/
def State.inDeviceRegion (s : State) (a : Nat) : Bool :=
  a ≤ Config.devicePortsLast || s.deviceRegion.any (fun r => r.1 ≤ a && a ≤ r.2)

/-- One move of the device agent: it acts by raising requests and by changing ports only (U14). -/
def State.deviceMove (s : State) : DeviceMove → State
  | .request r => { s with pending := addRequest r s.pending }
  | .port a b => if s.inDeviceRegion a.toNat then { s with data := Memory.write s.data a.toNat b } else s

/-- The device agent's turn before a step: the moves its schedule gives (log 5). -/
def State.deviceTurn (s : State) : State :=
  match s.schedule with
  | [] => s
  | moves :: rest => moves.foldl State.deviceMove { s with schedule := rest }

/-- The requests of `C` in R305: of a level strictly above `psr.p`. -/
def State.candidates (s : State) : List Request := s.pending.filter (fun r => s.priority < r.priority)

/-- The greatest level among requests. -/
def greatestPriority (l : List Request) : BitVec 3 := l.foldl (fun p r => if p < r.priority then r.priority else p) 0

/-- The request to acknowledge: one of the greatest level; among equals a free choice (R305; log 7). -/
def State.chosenRequest (s : State) : Option Request :=
  match s.candidates.filter (fun r => r.priority = greatestPriority s.candidates) with
  | [] => none
  | [r] => some r
  | r :: rs => (r :: rs)[Config.interruptDraw s.draws % (r :: rs).length]?

/-- The acknowledgement of an interrupt at the start of a cycle (R305), if there is one. -/
def State.acknowledge (s : State) : Option State :=
  if s.irqEnabled then
    match s.chosenRequest with
    | none => none
    | some r =>
      some (({ s with pending := s.pending.filter (fun q => q ≠ r), draws := s.draws + 1 } : State).trapEntry
        (.interrupt r.priority) r.vector s.pc)
  else none

end Sys2Proof.Machine
end

