-- ==== Sys2Proof/Machine/Flags.lean ====
section
/-! DEFINITION. The machine has no flags, no condition codes and no predicates (spec/10_state.md R38): no
instruction records a carry, an overflow, a zero or a sign. What other machines compute as flags are here the six
conditions of the branches, each on two registers (spec/41_b.md R151 to R156). -/

namespace Sys2Proof.Machine

/-- The condition of `beq`: all 32 bits equal (R151). -/
def condEq (a b : Word) : Bool := a == b

/-- The condition of `bne` (R152). -/
def condNe (a b : Word) : Bool := a != b

/-- The condition of `blt`: `s(a) < s(b)` (R153). -/
def condLt (a b : Word) : Bool := decide (a.toInt < b.toInt)

/-- The condition of `bge`: `s(a) >= s(b)` (R154). -/
def condGe (a b : Word) : Bool := decide (a.toInt ≥ b.toInt)

/-- The condition of `bltu`: `u(a) < u(b)` (R155). -/
def condLtu (a b : Word) : Bool := decide (a.toNat < b.toNat)

/-- The condition of `bgeu`: `u(a) >= u(b)` (R156, spec/90_conflicts.md C4). -/
def condGeu (a b : Word) : Bool := decide (a.toNat ≥ b.toNat)

end Sys2Proof.Machine
end

