-- ==== Sys2Proof/Machine/Operands.lean ====
section
/-! DEFINITION. The operand forms: immediates, effective addresses, jump targets, extension of loaded values,
and the loops over buffers and register ranges. -/

namespace Sys2Proof.Machine

/-- A signed operand as a word: the sign-extended immediate or byte offset (spec/30_encoding.md R105, R106). -/
def immWord (v : Int) : Word := BitVec.ofInt 32 v

/-- `x[base] + offset` modulo `2^32`, the effective address of a load or store (spec/42_i_jalr_loads.md R175,
spec/44_s.md R200). -/
def State.effAddr (s : State) (base : RegNum) (off : Int) : Word := s.reg base + immWord off

/-- `pc + offset`, the target of `jal` and of a taken branch (spec/40_u_j.md R142, spec/41_b.md R150). -/
def State.relTarget (s : State) (off : Int) : Word := s.pc + immWord off

/-- `imm20 << 12` (spec/30_encoding.md R104). -/
def upperImm (imm : BitVec 20) : Word := imm ++ 0#12

/-- `sext_8n` of the value of an access (spec/00_scope.md R8). -/
def signExtended (size : Size) (v : Word) : Word :=
  match size with
  | .byte => (v.extractLsb' 0 8).signExtend 32
  | .half => (v.extractLsb' 0 16).signExtend 32
  | .word => v

/-- `zext_8n` of the value of an access (spec/00_scope.md R8). -/
def zeroExtended (size : Size) (v : Word) : Word :=
  match size with
  | .byte => (v.extractLsb' 0 8).setWidth 32
  | .half => (v.extractLsb' 0 16).setWidth 32
  | .word => v

/-- `f` at `k`, `k + 1`, ... for `n` values, passing a result along and stopping at the first stop. -/
def forUp {α : Type} (f : Nat → α → Except Stop α) : Nat → Nat → α → Except Stop α
  | 0, _, x => .ok x
  | n + 1, k, x =>
    match f k x with
    | .error e => .error e
    | .ok y => forUp f n (k + 1) y

/-- `p` holds for some `k < n`. -/
def anyBelow (p : Nat → Bool) : Nat → Bool
  | 0 => false
  | n + 1 => p n || anyBelow p n

/-- The address `k` bytes above another, modulo `2^32`. -/
def addrUp (a : Word) (k : Nat) : Word := a + BitVec.ofNat 32 k

/-- The registers in the range `first` to `last`; none if `first > last` (spec/46_m.md R253). -/
def rangeCount (first last : RegNum) : Nat := last.toNat + 1 - first.toNat

end Sys2Proof.Machine
end

