-- ==== Sys2Proof/Machine/Branch.lean ====
section
/-! DEFINITION. The B instructions (spec/41_b.md). `pc` is the instruction's address plus 4. -/

namespace Sys2Proof.Machine

/-- A conditional branch (R150). -/
def State.branch (s : State) (taken : Bool) (off : Int) : Host.Outcome State Fault Refusal :=
  .next (if taken then { s with pc := s.relTarget off } else s)

/-- `beq` (R151). -/
def execBeq (rs1 rs2 : RegNum) (off : Int) (s : State) : Host.Outcome State Fault Refusal :=
  s.branch (condEq (s.reg rs1) (s.reg rs2)) off

/-- `bne` (R152). -/
def execBne (rs1 rs2 : RegNum) (off : Int) (s : State) : Host.Outcome State Fault Refusal :=
  s.branch (condNe (s.reg rs1) (s.reg rs2)) off

/-- `blt` (R153). -/
def execBlt (rs1 rs2 : RegNum) (off : Int) (s : State) : Host.Outcome State Fault Refusal :=
  s.branch (condLt (s.reg rs1) (s.reg rs2)) off

/-- `bge` (R154). -/
def execBge (rs1 rs2 : RegNum) (off : Int) (s : State) : Host.Outcome State Fault Refusal :=
  s.branch (condGe (s.reg rs1) (s.reg rs2)) off

/-- `bltu` (R155). -/
def execBltu (rs1 rs2 : RegNum) (off : Int) (s : State) : Host.Outcome State Fault Refusal :=
  s.branch (condLtu (s.reg rs1) (s.reg rs2)) off

/-- `bgeu` (R156). -/
def execBgeu (rs1 rs2 : RegNum) (off : Int) (s : State) : Host.Outcome State Fault Refusal :=
  s.branch (condGeu (s.reg rs1) (s.reg rs2)) off

end Sys2Proof.Machine
end

