-- ==== Sys2Proof/Machine/Bulk.lean ====
section
/-! DEFINITION. The M instructions (spec/46_m.md). Every access is checked first, in the order of the
pseudocode; only then are the accesses made (R240). All memory is main memory. -/

namespace Sys2Proof.Machine

/-! Buffers (R242 to R244). -/

/-- The page table entries that `n` byte accesses from `a` up use. -/
def State.bufferEntries (s : State) (a : Word) : Nat → List Nat
  | 0 => []
  | n + 1 => s.entriesOf (addrUp a n) .byte ++ s.bufferEntries a n

/-- Two buffers of `n` bytes share a physical byte (R242, U7). -/
def State.buffersOverlap (s : State) (a b : Word) (n : Nat) : Bool :=
  anyBelow (fun i => anyBelow (fun j => s.physAddr (addrUp a i) == s.physAddr (addrUp b j)) n) n

/-- Refuse overlapping buffers (R242, R243, U7). -/
def State.refuseOverlap (s : State) (a b : Word) (n : Nat) : Except Stop Unit :=
  if s.buffersOverlap a b n then .error (.refuse .overlappingBuffers) else .ok ()

/-- The checks of byte `k` of a copy. -/
def State.copyCheck (s : State) (a b : Word) (k : Nat) (_ : Unit) : Except Stop Unit := do
  s.checkRead (addrUp a k) .byte
  s.checkWrite (addrUp b k) .byte

/-- Byte `k` of a copy. -/
def copyByte (watched : List Nat) (a b : Word) (k : Nat) (t : State) : Except Stop State := do
  let v ← t.memRead (addrUp a k) .byte
  t.memWriteWatching watched (addrUp b k) .byte v

/-- `copy` (R242). -/
def State.copyBuffer (s : State) (a b : Word) (n : Nat) : Except Stop State := do
  forUp (s.copyCheck a b) n 0 ()
  s.refuseOverlap a b n
  forUp (copyByte (s.bufferEntries a n ++ s.bufferEntries b n) a b) n 0 s

/-- The checks of byte `k` of a swap. -/
def State.swapCheck (s : State) (a b : Word) (k : Nat) (_ : Unit) : Except Stop Unit := do
  s.checkRead (addrUp a k) .byte
  s.checkRead (addrUp b k) .byte
  s.checkWrite (addrUp a k) .byte
  s.checkWrite (addrUp b k) .byte

/-- Byte `k` of a swap. -/
def swapByte (watched : List Nat) (a b : Word) (k : Nat) (t : State) : Except Stop State := do
  let u ← t.memRead (addrUp a k) .byte
  let v ← t.memRead (addrUp b k) .byte
  let t1 ← t.memWriteWatching watched (addrUp a k) .byte v
  t1.memWriteWatching watched (addrUp b k) .byte u

/-- `swap` (R243). -/
def State.swapBuffers (s : State) (a b : Word) (n : Nat) : Except Stop State := do
  forUp (s.swapCheck a b) n 0 ()
  s.refuseOverlap a b n
  forUp (swapByte (s.bufferEntries a n ++ s.bufferEntries b n) a b) n 0 s

/-- The check of byte `k` of a fill. -/
def State.fillCheck (s : State) (a : Word) (k : Nat) (_ : Unit) : Except Stop Unit :=
  s.checkWrite (addrUp a k) .byte

/-- Byte `k` of a fill. -/
def fillByte (watched : List Nat) (a v : Word) (k : Nat) (t : State) : Except Stop State :=
  t.memWriteWatching watched (addrUp a k) .byte v

/-- `fill` (R244). -/
def State.fillBuffer (s : State) (a : Word) (n : Nat) (v : Word) : Except Stop State := do
  forUp (s.fillCheck a) n 0 ()
  forUp (fillByte (s.bufferEntries a n) a v) n 0 s

/-- `copy` (R242). -/
def execCopy (src dest len : RegNum) (s : State) : Host.Outcome State Fault Refusal :=
  s.finish (s.copyBuffer (s.reg src) (s.reg dest) (s.reg len).toNat)

/-- `swap` (R243). -/
def execSwap (buff1 buff2 len : RegNum) (s : State) : Host.Outcome State Fault Refusal :=
  s.finish (s.swapBuffers (s.reg buff1) (s.reg buff2) (s.reg len).toNat)

/-- `fill` (R244): the low byte of the third register. -/
def execFill (buff n byte : RegNum) (s : State) : Host.Outcome State Fault Refusal :=
  s.finish (s.fillBuffer (s.reg buff) (s.reg n).toNat (s.reg byte))

/-! Pointers (R245, R246). -/

/-- `through` (R245): `rd` names the datum, the word at `x[rs1]` is its address. -/
def execThrough (rd rs1 : RegNum) (s : State) : Host.Outcome State Fault Refusal :=
  s.finish do
    let p ← s.memRead (s.reg rs1) .word
    s.checkWrite p .word
    s.memWriteWatching (s.entriesOf (s.reg rs1) .word ++ s.entriesOf p .word) p .word (s.reg rd)

/-- `from` (R246). -/
def execFromPtr (rd rs1 : RegNum) (s : State) : Host.Outcome State Fault Refusal :=
  s.finish do
    let p ← s.memRead (s.reg rs1) .word
    let v ← s.memRead p .word
    .ok (s.setReg rd v)

/-! Stacks, full-descending (R241). -/

/-- The address of an item of a stack after a push, or of the next item after a pop. -/
def sizeWord (size : Size) : Word := BitVec.ofNat 32 size.bytes

/-- A pop (R247 to R249): the pointer is written first, the loaded value last. -/
def State.popItem (s : State) (rd sp : RegNum) (size : Size) : Except Stop State := do
  let v ← s.memRead (s.reg sp) size
  .ok ((s.setReg sp (s.reg sp + sizeWord size)).setReg rd v)

/-- The address a push stores at (R241). -/
def State.pushAddr (s : State) (sp : RegNum) (size : Size) : Word := s.reg sp - sizeWord size

/-- A push (R250 to R252): the old value of `rd`, below the old pointer. -/
def State.pushItem (s : State) (rd sp : RegNum) (size : Size) : Except Stop State := do
  let t ← s.memWriteWatching (s.entriesOf (s.pushAddr sp size) size) (s.pushAddr sp size) size (s.reg rd)
  .ok (t.setReg sp (s.pushAddr sp size))

/-- `popb` (R247). -/
def execPopb (rd sp : RegNum) (s : State) : Host.Outcome State Fault Refusal := s.finish (s.popItem rd sp .byte)

/-- `poph` (R248). -/
def execPoph (rd sp : RegNum) (s : State) : Host.Outcome State Fault Refusal := s.finish (s.popItem rd sp .half)

/-- `pop` (R249). -/
def execPop (rd sp : RegNum) (s : State) : Host.Outcome State Fault Refusal := s.finish (s.popItem rd sp .word)

/-- `pushb` (R250). -/
def execPushb (rd sp : RegNum) (s : State) : Host.Outcome State Fault Refusal := s.finish (s.pushItem rd sp .byte)

/-- `pushh` (R251). -/
def execPushh (rd sp : RegNum) (s : State) : Host.Outcome State Fault Refusal := s.finish (s.pushItem rd sp .half)

/-- `push` (R252). -/
def execPush (rd sp : RegNum) (s : State) : Host.Outcome State Fault Refusal := s.finish (s.pushItem rd sp .word)

/-! Register ranges (R253, R254). -/

/-- The register `k` places after the first of a range. -/
def rangeReg (first : RegNum) (k : Nat) : RegNum := first + BitVec.ofNat 5 k

/-- The page table entries that `n` word accesses from `base` up use. -/
def State.rangeEntries (s : State) (base : Word) : Nat → List Nat
  | 0 => []
  | n + 1 => s.entriesOf (addrUp base (4 * n)) .word ++ s.rangeEntries base n

/-- The check of word `k` of a save. -/
def State.saveCheck (s : State) (base : Word) (k : Nat) (_ : Unit) : Except Stop Unit :=
  s.checkWrite (addrUp base (4 * k)) .word

/-- Word `k` of a save. -/
def saveWord (watched : List Nat) (base : Word) (first : RegNum) (k : Nat) (t : State) : Except Stop State :=
  t.memWriteWatching watched (addrUp base (4 * k)) .word (t.reg (rangeReg first k))

/-- The words of `save` (R253). -/
def State.saveRange (s : State) (first : RegNum) (base : Word) (n : Nat) : Except Stop State := do
  forUp (s.saveCheck base) n 0 ()
  forUp (saveWord (s.rangeEntries base n) base first) n 0 s

/-- Word `k` of a restore. -/
def restoreWord (base : Word) (first : RegNum) (k : Nat) (t : State) : Except Stop State := do
  let v ← t.memRead (addrUp base (4 * k)) .word
  .ok (t.setReg (rangeReg first k) v)

/-- The words of `restore` (R254): the base is read once. -/
def State.restoreRange (s : State) (first : RegNum) (base : Word) (n : Nat) : Except Stop State :=
  forUp (restoreWord base first) n 0 s

/-- `save` (R253). -/
def execSave (first last dest : RegNum) (s : State) : Host.Outcome State Fault Refusal :=
  s.finish (s.saveRange first (s.reg dest) (rangeCount first last))

/-- `restore` (R254). -/
def execRestore (first last src : RegNum) (s : State) : Host.Outcome State Fault Refusal :=
  s.finish (s.restoreRange first (s.reg src) (rangeCount first last))

/-- `exch` (R255). -/
def execExch (rs1 rs2 : RegNum) (s : State) : Host.Outcome State Fault Refusal :=
  .next ((s.setReg rs1 (s.reg rs2)).setReg rs2 (s.reg rs1))

end Sys2Proof.Machine
end

