-- ==== Sys2Proof/Machine/Alu.lean ====
section
/-! DEFINITION. The arithmetic of the I and R instructions: exact integers, then narrowed to 32 bits
(spec/43_i_arith.md, spec/45_r.md). Sums and bitwise operations are those of `BitVec 32`. -/

namespace Sys2Proof.Machine

/-- The exact signed product in 64 bits (spec/45_r.md R214, spec/43_i_arith.md R181). -/
def product (a b : Word) : BitVec 64 := BitVec.ofInt 64 (a.toInt * b.toInt)

/-- Bits 63:32 of the product. -/
def productHigh (a b : Word) : Word := (product a b).extractLsb' 32 32

/-- Bits 31:0 of the product. -/
def productLow (a b : Word) : Word := (product a b).extractLsb' 0 32

/-- The one pair of operands whose quotient does not fit: `0x80000000 / -1` (U8). -/
def divOverflows (a b : Word) : Bool := a == 0x80000000 && b == 0xFFFFFFFF

/-- `sdiv`: signed, rounded toward zero, truncated to 32 bits (R182, R213); `DIV_OVERFLOW` for the one pair. -/
def quotient (a b : Word) : Word :=
  if divOverflows a b = true ∧ Config.divOverflow = .anyValue then Config.overflowQuotient a b
  else BitVec.ofInt 32 (a.toInt.tdiv b.toInt)

/-- `A - q * B` (R213); `DIV_OVERFLOW` for the one pair. -/
def remainder (a b : Word) : Word :=
  if divOverflows a b = true ∧ Config.divOverflow = .anyValue then Config.overflowRemainder a b
  else a - quotient a b * b

/-- A quotient, or Division by Zero (spec/60_exceptions.md R344). -/
def divisorCheck (b : Word) : Except Stop Unit :=
  if b = 0#32 then .error (.raise .divisionByZero) else .ok ()

/-- The amount of a shift or a rotation: its low 5 bits (R188, R222, R225), were `SHIFT_MASK5` false refused above 31
(spec/00_scope.md R4, U9). -/
def shiftAmount (b : Word) : Except Stop Nat :=
  if Config.shiftMask5 = true ∨ b.toNat < 32 then .ok (b.extractLsb' 0 5).toNat
  else .error (.refuse .shiftAmount)

/-- Rotate right by less than 32 (R225). -/
def rotatedRight (a : Word) (k : Nat) : Word := if k = 0 then a else a >>> k ||| a <<< (32 - k)

/-- Rotate left by less than 32 (R226). -/
def rotatedLeft (a : Word) (k : Nat) : Word := if k = 0 then a else a <<< k ||| a >>> (32 - k)

/-- The least `i` with bit `i` set, 32 if there is none (R219). -/
def trailingZeros (a : Word) : Nat := ((List.range 32).find? (fun i => a.getLsbD i)).getD 32

/-- The zero bits above the greatest set one, 32 if there is none (R220). -/
def leadingZeros (a : Word) : Nat := ((List.range 32).find? (fun i => a.getLsbD (31 - i))).getD 32

/-- The number of set bits (R221). -/
def setBits (a : Word) : Nat := (List.range 32).countP (fun i => a.getLsbD i)

end Sys2Proof.Machine
end

