-- ==== Sys2Proof/Machine/ImmArith.lean ====
section
/-! DEFINITION. Arithmetic with an immediate (spec/43_i_arith.md R191): the source is read before `rd` is
written, the immediate is sign-extended for every operation, there are no flags. -/

namespace Sys2Proof.Machine

/-- `muli` (R180). -/
def execMuli (rd rs1 : RegNum) (imm : Int) (s : State) : Host.Outcome State Fault Refusal :=
  .next (s.setReg rd (productLow (s.reg rs1) (immWord imm)))

/-- `mulih` (R181). -/
def execMulih (rd rs1 : RegNum) (imm : Int) (s : State) : Host.Outcome State Fault Refusal :=
  .next (s.setReg rd (productHigh (s.reg rs1) (immWord imm)))

/-- `idivi` (R182). -/
def execIdivi (rd rs1 : RegNum) (imm : Int) (s : State) : Host.Outcome State Fault Refusal :=
  s.finish do
    divisorCheck (immWord imm)
    .ok (s.setReg rd (quotient (s.reg rs1) (immWord imm)))

/-- `addi` (R183). -/
def execAddi (rd rs1 : RegNum) (imm : Int) (s : State) : Host.Outcome State Fault Refusal :=
  .next (s.setReg rd (s.reg rs1 + immWord imm))

/-- `subi` (R184). -/
def execSubi (rd rs1 : RegNum) (imm : Int) (s : State) : Host.Outcome State Fault Refusal :=
  .next (s.setReg rd (s.reg rs1 - immWord imm))

/-- `ori` (R185). -/
def execOri (rd rs1 : RegNum) (imm : Int) (s : State) : Host.Outcome State Fault Refusal :=
  .next (s.setReg rd (s.reg rs1 ||| immWord imm))

/-- `andi` (R186). -/
def execAndi (rd rs1 : RegNum) (imm : Int) (s : State) : Host.Outcome State Fault Refusal :=
  .next (s.setReg rd (s.reg rs1 &&& immWord imm))

/-- `xori` (R187). -/
def execXori (rd rs1 : RegNum) (imm : Int) (s : State) : Host.Outcome State Fault Refusal :=
  .next (s.setReg rd (s.reg rs1 ^^^ immWord imm))

/-- `shira` (R188). -/
def execShira (rd rs1 : RegNum) (imm : Int) (s : State) : Host.Outcome State Fault Refusal :=
  s.finish do
    let k ← shiftAmount (immWord imm)
    .ok (s.setReg rd ((s.reg rs1).sshiftRight k))

/-- `shirl` (R189). -/
def execShirl (rd rs1 : RegNum) (imm : Int) (s : State) : Host.Outcome State Fault Refusal :=
  s.finish do
    let k ← shiftAmount (immWord imm)
    .ok (s.setReg rd (s.reg rs1 >>> k))

/-- `shill` (R190). -/
def execShill (rd rs1 : RegNum) (imm : Int) (s : State) : Host.Outcome State Fault Refusal :=
  s.finish do
    let k ← shiftAmount (immWord imm)
    .ok (s.setReg rd (s.reg rs1 <<< k))

end Sys2Proof.Machine
end

