-- ==== Sys2Proof/Machine/Load.lean ====
section
/-! DEFINITION. `jalr` and the loads (spec/42_i_jalr_loads.md). -/

namespace Sys2Proof.Machine

/-- `jalr` (R160): the target through the old value of the base. -/
def execJalr (rd rs1 : RegNum) (off : Int) (s : State) : Host.Outcome State Fault Refusal :=
  .next { s.setReg rd s.pc with pc := s.effAddr rs1 off }

/-- A load from main memory (R175), `extend` being the extension of its form. -/
def State.loadMain (s : State) (rd rs1 : RegNum) (off : Int) (size : Size) (extend : Size → Word → Word) :
    Except Stop State := do
  let v ← s.memRead (s.effAddr rs1 off) size
  .ok (s.setReg rd (extend size v))

/-- A load from data memory, privileged (R175). -/
def State.loadData (s : State) (rd rs1 : RegNum) (off : Int) (size : Size) (extend : Size → Word → Word) :
    Except Stop State :=
  s.privileged do
    let v ← s.dataRead (s.effAddr rs1 off) size
    .ok (s.setReg rd (extend size v))

/-- `lb` (R161). -/
def execLb (rd rs1 : RegNum) (off : Int) (s : State) : Host.Outcome State Fault Refusal :=
  s.finish (s.loadMain rd rs1 off .byte signExtended)

/-- `lbu` (R162). -/
def execLbu (rd rs1 : RegNum) (off : Int) (s : State) : Host.Outcome State Fault Refusal :=
  s.finish (s.loadMain rd rs1 off .byte zeroExtended)

/-- `lbd` (R163). -/
def execLbd (rd rs1 : RegNum) (off : Int) (s : State) : Host.Outcome State Fault Refusal :=
  s.finish (s.loadData rd rs1 off .byte signExtended)

/-- `lbud` (R164). -/
def execLbud (rd rs1 : RegNum) (off : Int) (s : State) : Host.Outcome State Fault Refusal :=
  s.finish (s.loadData rd rs1 off .byte zeroExtended)

/-- `lh` (R165). -/
def execLh (rd rs1 : RegNum) (off : Int) (s : State) : Host.Outcome State Fault Refusal :=
  s.finish (s.loadMain rd rs1 off .half signExtended)

/-- `lhu` (R166). -/
def execLhu (rd rs1 : RegNum) (off : Int) (s : State) : Host.Outcome State Fault Refusal :=
  s.finish (s.loadMain rd rs1 off .half zeroExtended)

/-- `lhd` (R167). -/
def execLhd (rd rs1 : RegNum) (off : Int) (s : State) : Host.Outcome State Fault Refusal :=
  s.finish (s.loadData rd rs1 off .half signExtended)

/-- `lhud` (R168). -/
def execLhud (rd rs1 : RegNum) (off : Int) (s : State) : Host.Outcome State Fault Refusal :=
  s.finish (s.loadData rd rs1 off .half zeroExtended)

/-- `lw` (R169). -/
def execLw (rd rs1 : RegNum) (off : Int) (s : State) : Host.Outcome State Fault Refusal :=
  s.finish (s.loadMain rd rs1 off .word zeroExtended)

/-- `lwd` (R170). -/
def execLwd (rd rs1 : RegNum) (off : Int) (s : State) : Host.Outcome State Fault Refusal :=
  s.finish (s.loadData rd rs1 off .word zeroExtended)

end Sys2Proof.Machine
end

