-- ==== Sys2Proof/Machine/RegArith.lean ====
section
/-! DEFINITION. Register arithmetic (spec/45_r.md R210): both sources are read before a register is written,
there are no flags. -/

namespace Sys2Proof.Machine

/-- `add` (R211). -/
def execAdd (rd rs1 rs2 : RegNum) (s : State) : Host.Outcome State Fault Refusal :=
  .next (s.setReg rd (s.reg rs1 + s.reg rs2))

/-- `sub` (R212). -/
def execSub (rd rs1 rs2 : RegNum) (s : State) : Host.Outcome State Fault Refusal :=
  .next (s.setReg rd (s.reg rs1 - s.reg rs2))

/-- `idiv` (R213). -/
def execIdiv (rd rd2 rs1 rs2 : RegNum) (s : State) : Host.Outcome State Fault Refusal :=
  s.finish do
    divisorCheck (s.reg rs2)
    .ok ((s.setReg rd (quotient (s.reg rs1) (s.reg rs2))).setReg rd2 (remainder (s.reg rs1) (s.reg rs2)))

/-- `mul` (R214). -/
def execMul (rd rd2 rs1 rs2 : RegNum) (s : State) : Host.Outcome State Fault Refusal :=
  .next ((s.setReg rd (productHigh (s.reg rs1) (s.reg rs2))).setReg rd2 (productLow (s.reg rs1) (s.reg rs2)))

/-- `or` (R215). -/
def execOr (rd rs1 rs2 : RegNum) (s : State) : Host.Outcome State Fault Refusal :=
  .next (s.setReg rd (s.reg rs1 ||| s.reg rs2))

/-- `and` (R216). -/
def execAnd (rd rs1 rs2 : RegNum) (s : State) : Host.Outcome State Fault Refusal :=
  .next (s.setReg rd (s.reg rs1 &&& s.reg rs2))

/-- `xor` (R217). -/
def execXor (rd rs1 rs2 : RegNum) (s : State) : Host.Outcome State Fault Refusal :=
  .next (s.setReg rd (s.reg rs1 ^^^ s.reg rs2))

/-- `not` (R218). -/
def execNot (rd rs1 : RegNum) (s : State) : Host.Outcome State Fault Refusal :=
  .next (s.setReg rd (~~~(s.reg rs1)))

/-- `ctz` (R219). -/
def execCtz (rd rs1 : RegNum) (s : State) : Host.Outcome State Fault Refusal :=
  .next (s.setReg rd (BitVec.ofNat 32 (trailingZeros (s.reg rs1))))

/-- `clz` (R220). -/
def execClz (rd rs1 : RegNum) (s : State) : Host.Outcome State Fault Refusal :=
  .next (s.setReg rd (BitVec.ofNat 32 (leadingZeros (s.reg rs1))))

/-- `popcount` (R221). -/
def execPopcount (rd rs1 : RegNum) (s : State) : Host.Outcome State Fault Refusal :=
  .next (s.setReg rd (BitVec.ofNat 32 (setBits (s.reg rs1))))

/-- `shra` (R222). -/
def execShra (rd rs1 rs2 : RegNum) (s : State) : Host.Outcome State Fault Refusal :=
  s.finish do
    let k ← shiftAmount (s.reg rs2)
    .ok (s.setReg rd ((s.reg rs1).sshiftRight k))

/-- `shrl` (R223). -/
def execShrl (rd rs1 rs2 : RegNum) (s : State) : Host.Outcome State Fault Refusal :=
  s.finish do
    let k ← shiftAmount (s.reg rs2)
    .ok (s.setReg rd (s.reg rs1 >>> k))

/-- `shll` (R224). -/
def execShll (rd rs1 rs2 : RegNum) (s : State) : Host.Outcome State Fault Refusal :=
  s.finish do
    let k ← shiftAmount (s.reg rs2)
    .ok (s.setReg rd (s.reg rs1 <<< k))

/-- `ror` (R225). -/
def execRor (rd rs1 rs2 : RegNum) (s : State) : Host.Outcome State Fault Refusal :=
  s.finish do
    let k ← shiftAmount (s.reg rs2)
    .ok (s.setReg rd (rotatedRight (s.reg rs1) k))

/-- `rol` (R226). -/
def execRol (rd rs1 rs2 : RegNum) (s : State) : Host.Outcome State Fault Refusal :=
  s.finish do
    let k ← shiftAmount (s.reg rs2)
    .ok (s.setReg rd (rotatedLeft (s.reg rs1) k))

end Sys2Proof.Machine
end

