-- ==== Sys2Proof/Machine/Store.lean ====
section
/-! DEFINITION. The S instructions (spec/44_s.md): `rs1` holds the value, `rs2` the base. -/

namespace Sys2Proof.Machine

/-- A store to main memory (R200). -/
def State.storeMain (s : State) (rs1 rs2 : RegNum) (off : Int) (size : Size) : Except Stop State :=
  s.memWrite (s.effAddr rs2 off) size (s.reg rs1)

/-- A store to main memory that `SH_SW_PRIVILEGED` would make privileged (R203, R205). -/
def State.storeMainMarked (s : State) (rs1 rs2 : RegNum) (off : Int) (size : Size) : Except Stop State :=
  if Config.shSwPrivileged then s.privileged (s.storeMain rs1 rs2 off size) else s.storeMain rs1 rs2 off size

/-- A store to data memory, privileged (R200). -/
def State.storeData (s : State) (rs1 rs2 : RegNum) (off : Int) (size : Size) : Except Stop State :=
  s.privileged (s.dataWrite (s.effAddr rs2 off) size (s.reg rs1))

/-- `sb` (R201). -/
def execSb (rs1 rs2 : RegNum) (off : Int) (s : State) : Host.Outcome State Fault Refusal :=
  s.finish (s.storeMain rs1 rs2 off .byte)

/-- `sbd` (R202). -/
def execSbd (rs1 rs2 : RegNum) (off : Int) (s : State) : Host.Outcome State Fault Refusal :=
  s.finish (s.storeData rs1 rs2 off .byte)

/-- `sh` (R203). -/
def execSh (rs1 rs2 : RegNum) (off : Int) (s : State) : Host.Outcome State Fault Refusal :=
  s.finish (s.storeMainMarked rs1 rs2 off .half)

/-- `shd` (R204). -/
def execShd (rs1 rs2 : RegNum) (off : Int) (s : State) : Host.Outcome State Fault Refusal :=
  s.finish (s.storeData rs1 rs2 off .half)

/-- `sw` (R205). -/
def execSw (rs1 rs2 : RegNum) (off : Int) (s : State) : Host.Outcome State Fault Refusal :=
  s.finish (s.storeMainMarked rs1 rs2 off .word)

/-- `swd` (R206). -/
def execSwd (rs1 rs2 : RegNum) (off : Int) (s : State) : Host.Outcome State Fault Refusal :=
  s.finish (s.storeData rs1 rs2 off .word)

end Sys2Proof.Machine
end

