-- ==== Sys2Proof/Machine/System.lean ====
section
/-! DEFINITION. The T instructions (spec/47_t.md). -/

namespace Sys2Proof.Machine

/-- The vector of a `syscall`: the field when the register number is 0, else the low byte of the register
(R270; `SYSCALL_REG_WIDE`, U6). -/
def State.syscallVector (s : State) (rd : RegNum) (vector : BitVec 8) : Except Stop (BitVec 8) :=
  if rd = 0#5 then .ok vector
  else if Config.syscallRegWide = .refuse ∧ 256 ≤ (s.reg rd).toNat then .error (.refuse .wideSyscall)
  else .ok ((s.reg rd).extractLsb' 0 8)

/-- `syscall` (R270): a trap that saves `pc`, the address of the next instruction. -/
def execSyscall (rd : RegNum) (vector : BitVec 8) (s : State) : Host.Outcome State Fault Refusal :=
  s.finish do
    let v ← s.syscallVector rd vector
    .ok (s.trapEntry .trap v s.pc)

/-- `gsreg` (R271). -/
def execGsreg (rd : RegNum) (s : State) : Host.Outcome State Fault Refusal := .next (s.setReg rd s.psr)

/-- `ssreg` (R272): the register is read in the old mode. -/
def execSsreg (rs1 : RegNum) (s : State) : Host.Outcome State Fault Refusal :=
  s.finish (s.privileged (.ok (s.writePsr (s.reg rs1))))

/-- `sysret` (R273). -/
def execSysret (s : State) : Host.Outcome State Fault Refusal := s.finish (s.privileged s.trapReturn)

end Sys2Proof.Machine
end

