-- ==== Sys2Proof/Machine/UJ.lean ====
section
/-! DEFINITION. The U and J instructions (spec/40_u_j.md). `pc` is the instruction's address plus 4. -/

namespace Sys2Proof.Machine

/-- `lui` (R140). -/
def execLui (rd : RegNum) (imm : BitVec 20) (s : State) : Host.Outcome State Fault Refusal :=
  .next (s.setReg rd (upperImm imm))

/-- `auipc` (R141). -/
def execAuipc (rd : RegNum) (imm : BitVec 20) (s : State) : Host.Outcome State Fault Refusal :=
  .next (s.setReg rd (upperImm imm + s.pc))

/-- `jal` (R142). -/
def execJal (rd : RegNum) (off : Int) (s : State) : Host.Outcome State Fault Refusal :=
  .next { s.setReg rd s.pc with pc := s.relTarget off }

end Sys2Proof.Machine
end

