-- ==== Sys2Proof/Machine/Dispatch.lean ====
section
/-! DEFINITION. The meaning of every instruction, run with `pc` at the instruction's address plus 4. -/

namespace Sys2Proof.Machine

def exec (i : Instr) (s : State) : Host.Outcome State Fault Refusal :=
  match i with
  | .syscall rd vector => Sys2Proof.Machine.execSyscall rd vector s
  | .gsreg rd => Sys2Proof.Machine.execGsreg rd s
  | .ssreg rs1 => Sys2Proof.Machine.execSsreg rs1 s
  | .sysret => Sys2Proof.Machine.execSysret s
  | .copy src dest len => Sys2Proof.Machine.execCopy src dest len s
  | .swap buff1 buff2 len => Sys2Proof.Machine.execSwap buff1 buff2 len s
  | .fill buff n byte => Sys2Proof.Machine.execFill buff n byte s
  | .through rd rs1 => Sys2Proof.Machine.execThrough rd rs1 s
  | .fromPtr rd rs1 => Sys2Proof.Machine.execFromPtr rd rs1 s
  | .popb rd sp => Sys2Proof.Machine.execPopb rd sp s
  | .poph rd sp => Sys2Proof.Machine.execPoph rd sp s
  | .pop rd sp => Sys2Proof.Machine.execPop rd sp s
  | .pushb rd sp => Sys2Proof.Machine.execPushb rd sp s
  | .pushh rd sp => Sys2Proof.Machine.execPushh rd sp s
  | .push rd sp => Sys2Proof.Machine.execPush rd sp s
  | .save first last dest => Sys2Proof.Machine.execSave first last dest s
  | .restore first last src => Sys2Proof.Machine.execRestore first last src s
  | .exch rs1 rs2 => Sys2Proof.Machine.execExch rs1 rs2 s
  | .jal rd off => Sys2Proof.Machine.execJal rd off s
  | .lui rd imm => Sys2Proof.Machine.execLui rd imm s
  | .auipc rd imm => Sys2Proof.Machine.execAuipc rd imm s
  | .beq rs1 rs2 off => Sys2Proof.Machine.execBeq rs1 rs2 off s
  | .bne rs1 rs2 off => Sys2Proof.Machine.execBne rs1 rs2 off s
  | .blt rs1 rs2 off => Sys2Proof.Machine.execBlt rs1 rs2 off s
  | .bge rs1 rs2 off => Sys2Proof.Machine.execBge rs1 rs2 off s
  | .bltu rs1 rs2 off => Sys2Proof.Machine.execBltu rs1 rs2 off s
  | .bgeu rs1 rs2 off => Sys2Proof.Machine.execBgeu rs1 rs2 off s
  | .jalr rd rs1 off => Sys2Proof.Machine.execJalr rd rs1 off s
  | .lb rd rs1 off => Sys2Proof.Machine.execLb rd rs1 off s
  | .lbu rd rs1 off => Sys2Proof.Machine.execLbu rd rs1 off s
  | .lbd rd rs1 off => Sys2Proof.Machine.execLbd rd rs1 off s
  | .lbud rd rs1 off => Sys2Proof.Machine.execLbud rd rs1 off s
  | .lh rd rs1 off => Sys2Proof.Machine.execLh rd rs1 off s
  | .lhu rd rs1 off => Sys2Proof.Machine.execLhu rd rs1 off s
  | .lhd rd rs1 off => Sys2Proof.Machine.execLhd rd rs1 off s
  | .lhud rd rs1 off => Sys2Proof.Machine.execLhud rd rs1 off s
  | .lw rd rs1 off => Sys2Proof.Machine.execLw rd rs1 off s
  | .lwd rd rs1 off => Sys2Proof.Machine.execLwd rd rs1 off s
  | .muli rd rs1 imm => Sys2Proof.Machine.execMuli rd rs1 imm s
  | .mulih rd rs1 imm => Sys2Proof.Machine.execMulih rd rs1 imm s
  | .idivi rd rs1 imm => Sys2Proof.Machine.execIdivi rd rs1 imm s
  | .addi rd rs1 imm => Sys2Proof.Machine.execAddi rd rs1 imm s
  | .subi rd rs1 imm => Sys2Proof.Machine.execSubi rd rs1 imm s
  | .ori rd rs1 imm => Sys2Proof.Machine.execOri rd rs1 imm s
  | .andi rd rs1 imm => Sys2Proof.Machine.execAndi rd rs1 imm s
  | .xori rd rs1 imm => Sys2Proof.Machine.execXori rd rs1 imm s
  | .shira rd rs1 imm => Sys2Proof.Machine.execShira rd rs1 imm s
  | .shirl rd rs1 imm => Sys2Proof.Machine.execShirl rd rs1 imm s
  | .shill rd rs1 imm => Sys2Proof.Machine.execShill rd rs1 imm s
  | .add rd rs1 rs2 => Sys2Proof.Machine.execAdd rd rs1 rs2 s
  | .sub rd rs1 rs2 => Sys2Proof.Machine.execSub rd rs1 rs2 s
  | .idiv rd rd2 rs1 rs2 => Sys2Proof.Machine.execIdiv rd rd2 rs1 rs2 s
  | .mul rd rd2 rs1 rs2 => Sys2Proof.Machine.execMul rd rd2 rs1 rs2 s
  | .or rd rs1 rs2 => Sys2Proof.Machine.execOr rd rs1 rs2 s
  | .and rd rs1 rs2 => Sys2Proof.Machine.execAnd rd rs1 rs2 s
  | .xor rd rs1 rs2 => Sys2Proof.Machine.execXor rd rs1 rs2 s
  | .not rd rs1 => Sys2Proof.Machine.execNot rd rs1 s
  | .ctz rd rs1 => Sys2Proof.Machine.execCtz rd rs1 s
  | .clz rd rs1 => Sys2Proof.Machine.execClz rd rs1 s
  | .popcount rd rs1 => Sys2Proof.Machine.execPopcount rd rs1 s
  | .shra rd rs1 rs2 => Sys2Proof.Machine.execShra rd rs1 rs2 s
  | .shrl rd rs1 rs2 => Sys2Proof.Machine.execShrl rd rs1 rs2 s
  | .shll rd rs1 rs2 => Sys2Proof.Machine.execShll rd rs1 rs2 s
  | .ror rd rs1 rs2 => Sys2Proof.Machine.execRor rd rs1 rs2 s
  | .rol rd rs1 rs2 => Sys2Proof.Machine.execRol rd rs1 rs2 s
  | .sb rs1 rs2 off => Sys2Proof.Machine.execSb rs1 rs2 off s
  | .sbd rs1 rs2 off => Sys2Proof.Machine.execSbd rs1 rs2 off s
  | .sh rs1 rs2 off => Sys2Proof.Machine.execSh rs1 rs2 off s
  | .shd rs1 rs2 off => Sys2Proof.Machine.execShd rs1 rs2 off s
  | .sw rs1 rs2 off => Sys2Proof.Machine.execSw rs1 rs2 off s
  | .swd rs1 rs2 off => Sys2Proof.Machine.execSwd rs1 rs2 off s

end Sys2Proof.Machine
end

