-- ==== Sys2Proof/Machine/Step.lean ====
section
/-! DEFINITION. One turn of the execution cycle (spec/00_scope.md R10). -/

namespace Sys2Proof.Machine

/-- Step 4 of the cycle: `pc` at the address of the next instruction (R10, spec/10_state.md R25). -/
def State.advance (s : State) : State := { s with pc := s.pc + Config.pcBase }

/-- Steps 5 to 7 of the cycle: decode the fetched word and execute it, `s` being the state after step 4. An
undefined pair is an Illegal Instruction (spec/30_encoding.md R120). -/
def State.runWord (s : State) (w : Word) : Host.Outcome State Fault Refusal :=
  match decode w with
  | .ok i => exec i s
  | .error .nonZeroField => .refused .nonZeroField
  | .error .undefinedPair => s.finish (.error (.raise .illegalInstruction))
  | .error .tooShort => s.finish (.error (.raise .illegalInstruction))

/-- Steps 2 to 7 of the cycle: a fault of the fetch saves the address of the instruction (R303). -/
def State.cycle (s : State) : Host.Outcome State Fault Refusal :=
  match s.fetch with
  | .error e => s.settle s.pc (.error e)
  | .ok w => s.advance.runWord w

/-- One step: nothing while halted (spec/60_exceptions.md R315), else, after the device agent's turn, the
acknowledgement of an interrupt (R305) or an instruction. -/
def step (s : State) : Host.Outcome State Fault Refusal :=
  if s.halted then .fault .halted
  else
    match s.deviceTurn.acknowledge with
    | some t => .next t
    | none => s.deviceTurn.cycle

/-- The state with an instruction word stored where the next step fetches: at the physical address of `pc`. -/
def State.withFetchWord (s : State) (nbits w : Nat) : State :=
  match s.locate s.pc .fetch .word with
  | .ok t => s.physWrite t.phys .word (BitVec.ofNat 32 (w % 2 ^ nbits))
  | .error _ => s.physWrite s.pc.toNat .word (BitVec.ofNat 32 (w % 2 ^ nbits))

end Sys2Proof.Machine
end

