-- ==== Sys2Proof/Safety.lean ====
section
/-! DEFINITION. The terms in which claims speak of the machine: its invariant, what two states share, and what an
instruction does when it completes. -/

namespace Sys2Proof.Machine

/-- The invariant of the model: both memories in canonical form and inside their address ranges, the pending
requests in canonical form. -/
def State.wf (s : State) : Bool :=
  Memory.wf Config.memSize s.main && Memory.wf Config.dataSize s.data && pendingWf s.pending

/-- The two states agree on `psr`, `in_fault`, `halted`, `pending` and the model's own fields. -/
def SameControl (s t : State) : Prop :=
  t.psr = s.psr ∧ t.inFault = s.inFault ∧ t.halted = s.halted ∧ t.pending = s.pending ∧
    t.schedule = s.schedule ∧ t.deviceRegion = s.deviceRegion ∧ t.draws = s.draws

/-- Every byte of main memory reads as before. -/
def SameMain (s t : State) : Prop := ∀ a, Memory.read t.main a = Memory.read s.main a

/-- Every byte of data memory reads as before. -/
def SameData (s t : State) : Prop := ∀ a, Memory.read t.data a = Memory.read s.data a

/-- Every general register but those listed reads as before, and so does the stack pointer of the other mode. -/
def SameRegsBut (s t : State) (changed : List RegNum) : Prop :=
  (∀ i, i ∉ changed → t.reg i = s.reg i) ∧ (if s.supervisor then t.usp = s.usp else t.ssp = s.ssp)

/-- An instruction that wrote the listed registers and perhaps `pc`, and nothing else. -/
def RegisterFrame (s t : State) (changed : List RegNum) : Prop :=
  SameControl s t ∧ SameMain s t ∧ SameData s t ∧ SameRegsBut s t changed

/-- The instruction completes, its only effect being that register `rd` holds `v` (`r0` stays zero). -/
def WritesReg (i : Instr) (s : State) (rd : RegNum) (v : Word) : Prop :=
  ∃ t, exec i s = .next t ∧ t.reg rd = (if rd = 0#5 then 0#32 else v) ∧ t.pc = s.pc ∧ RegisterFrame s t [rd]

/-- The instruction's outcome is that it takes this fault, with its own address saved and no other effect. -/
def TakesFault (i : Instr) (s : State) (e : Exc) : Prop :=
  exec i s = .next (s.trapEntry .fault e.vector s.instrAddr)

/-- An address outside the `n` bytes from `pa` up. -/
def Outside (a pa n : Nat) : Prop := a < pa ∨ pa + n ≤ a

/-- Two ranges of bytes share none. -/
def Apart (a n b m : Nat) : Prop := a + n ≤ b ∨ b + m ≤ a

/-- Nothing but main memory differs. -/
def OnlyMain (s t : State) : Prop := SameControl s t ∧ SameData s t ∧ SameRegsBut s t [] ∧ t.pc = s.pc

/-- Every byte of main memory outside the `n` bytes from `pa` up, and outside the page table entry whose dirty bit
the access sets, reads as before. -/
def MainOutside (s t : State) (tr : Translation) (n : Nat) : Prop :=
  ∀ a, Outside a tr.phys n → (∀ p pte, tr.dirty = some (p, pte) → Outside a p 2) →
    Memory.read t.main a = Memory.read s.main a

/-- The bytes at the translated address hold the low bytes of `v`, the most significant first; the page table entry
whose dirty bit the access sets has its new value, where it shares no byte with them; no other byte of main memory
changed. -/
def Stored (s t : State) (tr : Translation) (size : Size) (v : Word) : Prop :=
  Memory.load t.main tr.phys size = zeroExtended size v ∧
    (∀ p pte, tr.dirty = some (p, pte) → Apart tr.phys size.bytes p 2 → Memory.load t.main p .half = pte) ∧
    MainOutside s t tr size.bytes

/-- The instruction completes, its only effect being that the low bytes of `v` are stored (and a dirty bit set). -/
def StoresMain (i : Instr) (s : State) (tr : Translation) (size : Size) (v : Word) : Prop :=
  ∃ t, exec i s = .next t ∧ OnlyMain s t ∧ Stored s t tr size v

/-- The instruction completes, its only effect being that the low bytes of `v` are in data memory at `a`. -/
def StoresData (i : Instr) (s : State) (a : Nat) (size : Size) (v : Word) : Prop :=
  ∃ t, exec i s = .next t ∧ SameControl s t ∧ SameMain s t ∧ SameRegsBut s t [] ∧ t.pc = s.pc ∧
    Memory.load t.data a size = zeroExtended size v ∧
    ∀ x, Outside x a size.bytes → Memory.read t.data x = Memory.read s.data x

/-- The write of `va` is allowed, with this translation. -/
def AllowedWrite (s : State) (va : Word) (size : Size) (tr : Translation) : Prop := s.locate va .write size = .ok tr

/-- Every byte of main memory outside the `n` ranges of `width` bytes, and outside the page table entries whose dirty
bits the accesses set, reads as before. -/
def MainOutsideAll (s t : State) (n width : Nat) (tr : Nat → Translation) : Prop :=
  ∀ a, (∀ k, k < n → Outside a (tr k).phys width ∧ ∀ p pte, (tr k).dirty = some (p, pte) → Outside a p 2) →
    Memory.read t.main a = Memory.read s.main a

/-- The page table entries whose dirty bits the `n` accesses set have their new values. -/
def DirtyBitsSet (t : State) (n : Nat) (tr : Nat → Translation) : Prop :=
  ∀ k, k < n → ∀ p pte, (tr k).dirty = some (p, pte) → Memory.load t.main p .half = pte

/-- The store of the low bytes of `v` at the translated address changes the value of one of these page table
entries (R240; log 14). -/
def ChangesUsedEntry (s : State) (entries : List Nat) (tr : Translation) (size : Size) (v : Word) : Prop :=
  ∃ p ∈ entries, Memory.load (Memory.store (s.setDirty tr).main tr.phys size v) p .half ≠
    Memory.load (s.setDirty tr).main p .half

/-- The state after an allowed write: the dirty bit of its page set, then its bytes stored (R61, R75). -/
def State.written (s : State) (tr : Translation) (size : Size) (v : Word) : State :=
  (s.setDirty tr).physWrite tr.phys size v

/-- The state after the first so many of a sequence of allowed writes, write `k` of a value that may depend on the
state before it. -/
def State.afterWrites (s : State) (tr : Nat → Translation) (size : Size) (val : Nat → State → Word) : Nat → State
  | 0 => s
  | k + 1 =>
    (State.afterWrites s tr size val k).written (tr k) size (val k (State.afterWrites s tr size val k))

/-- One of `n` allowed writes made in sequence changes the value of one of these page table entries (R240; log 14). -/
def WritesChangeEntry (s : State) (entries : List Nat) (tr : Nat → Translation) (size : Size) (val : Nat → State → Word)
    (n : Nat) : Prop :=
  ∃ k, k < n ∧ ChangesUsedEntry (s.afterWrites tr size val k) entries (tr k) size (val k (s.afterWrites tr size val k))

/-- The state after the first write of an exchange of the bytes at two translated addresses. -/
def State.firstSwapped (s : State) (tr1 tr2 : Translation) : State :=
  s.written tr1 .byte (Memory.load s.main tr2.phys .byte)

/-- The state after an exchange of the bytes at two translated addresses. -/
def State.swapped (s : State) (tr1 tr2 : Translation) : State :=
  (s.firstSwapped tr1 tr2).written tr2 .byte (Memory.load s.main tr1.phys .byte)

/-- The state after the first so many of a sequence of exchanges of two bytes. -/
def State.afterSwaps (s : State) (tr1 tr2 : Nat → Translation) : Nat → State
  | 0 => s
  | k + 1 => (State.afterSwaps s tr1 tr2 k).swapped (tr1 k) (tr2 k)

/-- One of the writes of `n` exchanges made in sequence changes the value of one of these page table entries (R240;
log 14). -/
def SwapsChangeEntry (s : State) (entries : List Nat) (tr1 tr2 : Nat → Translation) (n : Nat) : Prop :=
  ∃ k, k < n ∧
    (ChangesUsedEntry (s.afterSwaps tr1 tr2 k) entries (tr1 k) .byte
        (Memory.load (s.afterSwaps tr1 tr2 k).main (tr2 k).phys .byte) ∨
      ChangesUsedEntry ((s.afterSwaps tr1 tr2 k).firstSwapped (tr1 k) (tr2 k)) entries (tr2 k) .byte
        (Memory.load (s.afterSwaps tr1 tr2 k).main (tr1 k).phys .byte))

/-- One access of main memory: its address, what it is for, its width. -/
abbrev Access := Word × AccessKind × Size

/-- The page table entries that some accesses use. -/
def State.entriesUsed (s : State) (l : List Access) : List Nat := l.flatMap (fun x => s.entriesOf x.1 x.2.2)

/-- The accesses of `copy`, in the order of R242. -/
def copyAccesses (a b : Word) (n : Nat) : List Access :=
  (List.range n).flatMap (fun k => [(a + BitVec.ofNat 32 k, .read, .byte), (b + BitVec.ofNat 32 k, .write, .byte)])

/-- The accesses of `swap`, in the order of R243. -/
def swapAccesses (a b : Word) (n : Nat) : List Access :=
  (List.range n).flatMap (fun k =>
    [(a + BitVec.ofNat 32 k, .read, .byte), (b + BitVec.ofNat 32 k, .read, .byte),
      (a + BitVec.ofNat 32 k, .write, .byte), (b + BitVec.ofNat 32 k, .write, .byte)])

/-- The accesses of `fill`, in the order of R244. -/
def fillAccesses (a : Word) (n : Nat) : List Access :=
  (List.range n).map (fun k => (a + BitVec.ofNat 32 k, .write, .byte))

/-- The accesses of `save` (`kind` write, R253) and `restore` (`kind` read, R254), in order. -/
def rangeAccesses (kind : AccessKind) (base : Word) (n : Nat) : List Access :=
  (List.range n).map (fun k => (base + BitVec.ofNat 32 (4 * k), kind, .word))

/-- The first of these accesses that a check stops raises `e`; those before it are allowed. -/
def FirstStop (s : State) (l : List Access) (e : Exc) : Prop :=
  ∃ before after : List Access, ∃ x : Access, l = before ++ x :: after ∧
    (∀ y ∈ before, ∃ tr, s.locate y.1 y.2.1 y.2.2 = .ok tr) ∧ s.locate x.1 x.2.1 x.2.2 = .error (.raise e)

/-- The state in supervisor mode, in which trap entry makes its pushes (spec/60_exceptions.md R310). -/
def State.asSupervisor (s : State) : State := { s with psr := psrSupervisor s.psr }

/-- The read of `va` is allowed at physical address `pa`. -/
def AllowedRead (s : State) (va : Word) (size : Size) (pa : Nat) : Prop :=
  s.locate va .read size = .ok { phys := pa, dirty := none }

/-- With the MMU off, an aligned access of main memory at `va` is inside it (R60). -/
def PlainAccess (s : State) (va : Word) (size : Size) : Prop :=
  s.mmuOn = false ∧ aligned va size = true ∧ va.toNat + size.bytes ≤ Config.memSize

/-- An aligned access of data memory at `va` is inside it (R63). -/
def DataAccess (va : Word) (size : Size) : Prop :=
  aligned va size = true ∧ va.toNat + size.bytes ≤ Config.dataSize

/-- The match and mask of every row of spec/opcode_table.json, in its order. -/
def opcodeTable : List (Word × Word) :=
  [(0x04000000, 0xFE0FFF00), (0x06000000, 0xFE0FFFFF), (0x08000000, 0xFE0FFFFF), (0x0C000000, 0xFFFFFFFF),
   (0x20000000, 0xFE0003FF), (0x22000000, 0xFE0003FF), (0x24000000, 0xFE0003FF), (0x26000000, 0xFE007FFF),
   (0x28000000, 0xFE007FFF), (0x2A000000, 0xFE007FFF), (0x2C000000, 0xFE007FFF), (0x2E000000, 0xFE007FFF),
   (0x30000000, 0xFE007FFF), (0x32000000, 0xFE007FFF), (0x34000000, 0xFE007FFF), (0x36000000, 0xFE0003FF),
   (0x38000000, 0xFE0003FF), (0x3A000000, 0xFE007FFF), (0x40000000, 0xFE000000), (0x42000000, 0xFE000000),
   (0x44000000, 0xFE000000), (0x60000000, 0xFE000000), (0x62000000, 0xFE000000), (0x64000000, 0xFE000000)] ++
  [(0x66000000, 0xFE000000), (0x68000000, 0xFE000000), (0x6A000000, 0xFE000000), (0x82000000, 0xFE000000),
   (0x84000000, 0xFE000000), (0x86000000, 0xFE000000), (0x88000000, 0xFE000000), (0x8A000000, 0xFE000000),
   (0x8C000000, 0xFE000000), (0x8E000000, 0xFE000000), (0x90000000, 0xFE000000), (0x92000000, 0xFE000000),
   (0x94000000, 0xFE000000), (0x96000000, 0xFE000000), (0xA0000000, 0xFE000000), (0xA2000000, 0xFE000000),
   (0xA4000000, 0xFE000000), (0xA6000000, 0xFE000000), (0xA8000000, 0xFE000000), (0xAA000000, 0xFE000000),
   (0xAC000000, 0xFE000000), (0xAE000000, 0xFE000000), (0xB0000000, 0xFE000000), (0xB2000000, 0xFE000000)] ++
  [(0xB4000000, 0xFE000000), (0xC0000000, 0xFE0003FF), (0xC2000000, 0xFE0003FF), (0xC4000000, 0xFE00001F),
   (0xC6000000, 0xFE00001F), (0xC8000000, 0xFE0003FF), (0xCA000000, 0xFE0003FF), (0xCC000000, 0xFE0003FF),
   (0xCE000000, 0xFE007FFF), (0xD0000000, 0xFE007FFF), (0xD2000000, 0xFE007FFF), (0xD4000000, 0xFE007FFF),
   (0xD6000000, 0xFE0003FF), (0xD8000000, 0xFE0003FF), (0xDA000000, 0xFE0003FF), (0xDC000000, 0xFE0003FF),
   (0xDE000000, 0xFE0003FF), (0xE0000000, 0xFE000000), (0xE2000000, 0xFE000000), (0xE4000000, 0xFE000000),
   (0xE6000000, 0xFE000000), (0xE8000000, 0xFE000000), (0xEA000000, 0xFE000000)]

/-- The words that `mask` and `value` select are those that decode to `f` of the word. -/
def EncodedBy (mask value : Word) (f : Word → Instr) : Prop :=
  ∀ w, w &&& mask = value ↔ decode w = .ok (f w)

/-- The next step of the machine is an instruction's: it is not halted and acknowledges no interrupt. -/
def State.runs (s : State) : Prop := s.halted = false ∧ s.deviceTurn.acknowledge = none

/-- A run is safe while the machine has not halted (spec/10_state.md R37: reaching `halted` is a fault of the run). -/
def State.safe (s : State) : Bool := !s.halted

end Sys2Proof.Machine
end

