-- ==== Sys2Proof/Certificates/Slice0/Obligations.lean ====
section
/-! DEFINITION. The statements for the provers. The spec marks almost every rule with decisions of its own
(spec/92_eei_decisions.md); a docstring names the ones its statement rests on (log 16). -/

section

open Sys2Proof Sys2Proof.Machine

/-! Encoding. -/

/-- Decoding the word of a well-formed instruction gives it back, every operand at every value the encoding admits
(decisions D1, D2, D5, D21). -/
def Obligations.DecodeOfEncode : Prop := ∀ i : Instr, i.wf = true → decode (encode i) = .ok i

/-- Every word that decodes is the word of its instruction, which is well-formed: one encoding per instruction
(decisions D1, D2, D5, D9, D21). -/
def Obligations.EncodeOfDecode : Prop := ∀ (w : Word) (i : Instr), decode w = .ok i → encode i = w ∧ i.wf = true

/-- A word decodes exactly when it is in a row of the opcode table, whose match names the instruction, and no two
rows share a word (decisions D9, D21). -/
def Obligations.OpcodeTableSelects : Prop :=
  (∀ w, (∃ i, decode w = .ok i) ↔ ∃ r ∈ opcodeTable, w &&& r.2 = r.1) ∧
  (∀ w i, decode w = .ok i → ∀ r ∈ opcodeTable, w &&& r.2 = r.1 → r.1.extractLsb' 25 7 = i.selector) ∧
  opcodeTable.Pairwise (fun q r => ∀ w, ¬ (w &&& q.2 = q.1 ∧ w &&& r.2 = r.1))

/-- The undefined pairs are the 57 of the spec's list (decision D8). -/
def Obligations.UndefinedPairs : Prop :=
  ∀ w : Word, decode w = .error .undefinedPair ↔
    (groupField w = 0 ∧ opcodeField w ∈ [0x0, 0x1, 0x5] ∨ groupField w = 0 ∧ 0x7 ≤ opcodeField w) ∨
    (groupField w = 1 ∧ 0xe ≤ opcodeField w) ∨ (groupField w = 2 ∧ 0x3 ≤ opcodeField w) ∨
    (groupField w = 3 ∧ 0x6 ≤ opcodeField w) ∨
    (groupField w = 4 ∧ opcodeField w = 0x0 ∨ groupField w = 4 ∧ 0xc ≤ opcodeField w) ∨
    (groupField w = 5 ∧ 0xb ≤ opcodeField w) ∨ (groupField w = 7 ∧ 0x6 ≤ opcodeField w)

/-- A word of each family, from spec/95_test_vectors.md and the examples of the instructions' rules, decodes to its
instruction; three words with a non-zero must-be-zero bit are refused by name, whatever the state (decisions D2, D5,
D9, D21). -/
def Obligations.KnownWords : Prop :=
  decode 0x04000020 = .ok (.syscall 0 0x20) ∧ decode 0x0C000000 = .ok .sysret ∧
  decode 0x36A58800 = .ok (.save 10 11 2) ∧ decode 0x2AC10000 = .ok (.popb 12 2) ∧
  decode 0x423ABCDE = .ok (.lui 3 0xABCDE) ∧ decode 0x44400001 = .ok (.auipc 4 1) ∧
  decode 0x40180000 = .ok (.jal 1 (-0x200000)) ∧ decode 0x6AB64000 = .ok (.bgeu 11 12 (-0x10000)) ∧
  decode 0x8200FFFF = .ok (.jalr 0 1 (-4)) ∧ decode 0x94317FFC = .ok (.lw 3 2 (-4)) ∧
  decode 0xA6327FFF = .ok (.addi 3 4 (-1)) ∧ decode 0xC43310A0 = .ok (.idiv 3 6 4 5) ∧
  decode 0xEA330080 = .ok (.swd 3 6 0x80) ∧
  ∀ (w : Word), w ∈ [0xC0321401, 0x0C100000, 0x04000120] →
    decode w = .error .nonZeroField ∧ ∀ s : State, s.runWord w = .refused .nonZeroField

/-! The step. -/

/-- When the bytes at `pc` decode to an instruction, the step is its meaning in the state after the device agent's
turn with `pc` 4 higher (decision D4). -/
def Obligations.StepRunsDecodedInstruction : Prop :=
  ∀ (s : State) (w : Word) (i : Instr), s.runs → s.deviceTurn.fetch = .ok w → decode w = .ok i →
    step s = exec i s.deviceTurn.advance ∧
    s.deviceTurn.advance = { s.deviceTurn with pc := s.deviceTurn.pc + 4 } ∧
    (s.schedule = [] → s.deviceTurn = s)

/-- A step that runs an instruction takes the fetch's fault with the address of the instruction, and Illegal
Instruction for an undefined pair (decisions D6, D7, D8, D11). -/
def Obligations.FetchFaults : Prop :=
  ∀ s : State, s.runs →
    (s.deviceTurn.pc.toNat % 4 ≠ 0 → step s = .next (s.deviceTurn.trapEntry .fault 0x03 s.deviceTurn.pc)) ∧
    (s.deviceTurn.pc.toNat % 4 = 0 → 2 ^ 24 ≤ s.deviceTurn.pc.toNat →
      step s = .next (s.deviceTurn.trapEntry .fault 0x02 s.deviceTurn.pc)) ∧
    (∀ e, s.deviceTurn.translate s.deviceTurn.pc .fetch .word = .error (.raise e) → s.deviceTurn.mmuOn = true →
      s.deviceTurn.pc.toNat % 4 = 0 → s.deviceTurn.pc.toNat < 2 ^ 24 →
      step s = .next (s.deviceTurn.trapEntry .fault e.vector s.deviceTurn.pc)) ∧
    (∀ w, s.deviceTurn.fetch = .ok w → decode w = .error .undefinedPair →
      step s = .next (s.deviceTurn.advance.trapEntry .fault 0x04 s.deviceTurn.pc))

/-- With interrupts enabled and a request above the CPU's priority pending, the step is the trap entry of a pending
request of the greatest level, which leaves the set (decision D16; which one among equals is a free value, log 7). -/
def Obligations.InterruptAcknowledged : Prop :=
  ∀ s : State, s.halted = false → s.deviceTurn.irqEnabled = true →
    (∃ r ∈ s.deviceTurn.pending, s.deviceTurn.priority < r.priority) →
    ∃ q ∈ s.deviceTurn.pending, s.deviceTurn.priority < q.priority ∧
      (∀ r ∈ s.deviceTurn.pending, r.priority ≤ q.priority) ∧
      step s = .next (({ s.deviceTurn with
          pending := s.deviceTurn.pending.filter (fun r => r ≠ q)
          draws := s.deviceTurn.draws + 1 } : State).trapEntry (.interrupt q.priority) q.vector s.deviceTurn.pc)

/-- Interrupts disabled, or no request above the CPU's priority (so none of level 0, and none at priority 7): the
step is the instruction's and every request stays pending (decision D16). -/
def Obligations.InterruptsMasked : Prop :=
  ∀ s : State, s.halted = false →
    (s.deviceTurn.irqEnabled = false ∨ (∀ r ∈ s.deviceTurn.pending, r.priority ≤ s.deviceTurn.priority) ∨
      (∀ r ∈ s.deviceTurn.pending, r.priority = 0) ∨ s.deviceTurn.priority = 7) →
    step s = s.deviceTurn.cycle ∧ ∀ t, step s = .next t → t.pending = s.deviceTurn.pending

/-- Before a step the device agent adds requests and changes bytes of `DEVICE_REGION`, whatever that region is, and
nothing else (the agent as a schedule is the model's choice, log 5; the region an argument, log 6). -/
def Obligations.DeviceTurnFrame : Prop :=
  ∀ s : State,
    s.deviceTurn = { s with
      pending := s.deviceTurn.pending, data := s.deviceTurn.data, schedule := s.schedule.tail } ∧
    (∀ r ∈ s.pending, r ∈ s.deviceTurn.pending) ∧
    (∀ a, s.inDeviceRegion a = false → Memory.read s.deviceTurn.data a = Memory.read s.data a) ∧
    (∀ a, s.inDeviceRegion a = true ↔ a ≤ 0x20 ∨ ∃ r ∈ s.deviceRegion, r.1 ≤ a ∧ a ≤ r.2)

/-! Reset and invariants. -/

/-- The state after reset over any two memories and any device region (decision D24). -/
def Obligations.ResetValues : Prop :=
  ∀ (mainInit dataInit : Memory) (region : List (Nat × Nat)),
    (State.resetWith mainInit dataInit region).psr = 0x83EFF000 ∧
    (State.resetWith mainInit dataInit region).supervisor = true ∧
    (State.resetWith mainInit dataInit region).irqEnabled = false ∧
    (State.resetWith mainInit dataInit region).mmuOn = false ∧
    (State.resetWith mainInit dataInit region).priority = 0 ∧
    (State.resetWith mainInit dataInit region).ivtField = 62 ∧
    (State.resetWith mainInit dataInit region).pdtField = 255 ∧
    (State.resetWith mainInit dataInit region).resField = 0 ∧
    (State.resetWith mainInit dataInit region).reg 0 = 0 ∧
    (State.resetWith mainInit dataInit region).pc = Memory.load dataInit 0xF800 .word ∧
    (State.resetWith mainInit dataInit region).pending = [] ∧
    (State.resetWith mainInit dataInit region).inFault = false ∧
    (State.resetWith mainInit dataInit region).halted = false ∧
    (State.resetWith mainInit dataInit region).main = mainInit ∧
    (State.resetWith mainInit dataInit region).data = dataInit ∧
    (State.resetWith mainInit dataInit region).deviceRegion = region

/-- The invariant holds after reset (of the model's own: canonical memories, log 3, and request set, log 8). -/
def Obligations.ResetCanonical : Prop :=
  State.reset.wf = true ∧
  ∀ (mainInit dataInit : Memory) (region : List (Nat × Nat)),
    Memory.wf (2 ^ 24) mainInit = true → Memory.wf (2 ^ 16) dataInit = true →
    (State.resetWith mainInit dataInit region).wf = true

/-- Every step keeps both memories canonical and inside their address ranges and the request set canonical (the
model's own form, log 3, 8). -/
def Obligations.StepKeepsCanonicalForm : Prop := ∀ s t : State, s.wf = true → step s = .next t → t.wf = true

/-- A step from user mode leaves data memory as the device agent left it: user code has no way to write the vector
table, the page directory or a device (decision D10). -/
def Obligations.UserNeverWritesDataMemory : Prop :=
  ∀ s t : State, s.deviceTurn.supervisor = false → step s = .next t → t.data = s.deviceTurn.data

/-- A step from user mode that ends in supervisor mode is a trap entry: it goes to an address of the vector table,
with a frame of 8 bytes on the supervisor stack (decisions D13, D14). -/
def Obligations.UserEntersSupervisorByTrapEntry : Prop :=
  ∀ s t : State, s.deviceTurn.supervisor = false → step s = .next t → t.supervisor = true →
    (∃ v, t.pc = s.deviceTurn.vectorEntry v) ∧ t.ssp = s.deviceTurn.ssp - 8 ∧ t.usp = s.deviceTurn.usp ∧
      t.regs = s.deviceTurn.regs ∧ t.halted = false

/-- No instruction run in supervisor mode changes the user stack pointer, and none run in user mode that stays there
changes the supervisor's. -/
def Obligations.StackBanks : Prop :=
  ∀ (i : Instr) (s t : State), exec i s = .next t →
    (s.supervisor = true → t.usp = s.usp) ∧ (s.supervisor = false → t.supervisor = false → t.ssp = s.ssp)

/-- Only `ssreg`, `sysret` and a trap entry change `psr`; no instruction changes the pending requests or the device
region (decisions D13, D14, D29). -/
def Obligations.StatusWriters : Prop :=
  ∀ (i : Instr) (s t : State), exec i s = .next t →
    t.pending = s.pending ∧ t.deviceRegion = s.deviceRegion ∧
    (t.psr = s.psr ∨ (∃ rs1, i = .ssreg rs1) ∨ i = .sysret ∨ ∃ k v savePc, t = s.trapEntry k v savePc)

/-- Reading and writing a general register (R6): `r0` is zero, `r2` the stack pointer of the mode. -/
def Obligations.RegisterAccess : Prop :=
  (∀ s : State, s.reg 0 = 0 ∧ (s.supervisor = true → s.reg 2 = s.ssp) ∧ (s.supervisor = false → s.reg 2 = s.usp)) ∧
  (∀ (s : State) (v : Word), s.setReg 0 v = s ∧ (s.supervisor = true → s.setReg 2 v = { s with ssp := v }) ∧
    (s.supervisor = false → s.setReg 2 v = { s with usp := v })) ∧
  ∀ (s : State) (i : RegNum) (v : Word), i ≠ 0 → (s.setReg i v).reg i = v ∧ RegisterFrame s (s.setReg i v) [i] ∧
    (s.setReg i v).pc = s.pc ∧ (i ≠ 2 → (s.setReg i v).usp = s.usp ∧ (s.setReg i v).ssp = s.ssp)

/-! Taking an exception and returning. -/

/-- Trap entry: the old `psr` in the word below the supervisor stack pointer, the saved `pc` in the word below that, the
new mode, priority and `pc`, and nothing else. First with the MMU off and a stack with room, in numbers; then with the
MMU on or off, at the physical addresses that supervisor writes of the two words are allowed at, with the dirty bits of
their pages, where the frame is not over the page table entries that map it (decisions D12, D13, D15, D23; the frame
over its own entries, log 15). -/
def Obligations.TrapEntryEffects : Prop :=
  (∀ (s : State) (k : TrapKind) (v : BitVec 8) (savePc : Word),
    s.mmuOn = false → s.ssp.toNat % 4 = 0 → 8 ≤ s.ssp.toNat → s.ssp.toNat ≤ 2 ^ 24 →
    ¬ (k = .fault ∧ s.inFault = true) →
    ∃ m : Memory,
      s.trapEntry k v savePc = { s with
        main := m
        inFault := s.inFault || decide (k = .fault)
        ssp := s.ssp - 8
        psr := k.enterPsr s.psr
        pc := Memory.load s.data (1024 * s.ivtField.toNat + 4 * v.toNat) .word } ∧
      Memory.load m (s.ssp.toNat - 4) .word = s.psr ∧ Memory.load m (s.ssp.toNat - 8) .word = savePc ∧
      ∀ a, Outside a (s.ssp.toNat - 8) 8 → Memory.read m a = Memory.read s.main a) ∧
  ∀ (s : State) (k : TrapKind) (v : BitVec 8) (savePc : Word) (tr1 tr2 : Translation),
    ¬ (k = .fault ∧ s.inFault = true) →
    AllowedWrite s.asSupervisor (s.ssp - 4) .word tr1 → AllowedWrite s.asSupervisor (s.ssp - 8) .word tr2 →
    (∀ p, (p ∈ s.entriesOf (s.ssp - 4) .word ∨ p ∈ s.entriesOf (s.ssp - 8) .word) →
      Apart tr1.phys 4 p 2 ∧ Apart tr2.phys 4 p 2) →
    ∃ m : Memory,
      s.trapEntry k v savePc = { s with
        main := m
        inFault := s.inFault || decide (k = .fault)
        ssp := s.ssp - 8
        psr := k.enterPsr s.psr
        pc := Memory.load s.data (1024 * s.ivtField.toNat + 4 * v.toNat) .word } ∧
      Memory.load m tr1.phys .word = s.psr ∧ Memory.load m tr2.phys .word = savePc ∧
      (∀ p pte, (tr1.dirty = some (p, pte) ∨ tr2.dirty = some (p, pte)) → Memory.load m p .half = pte) ∧
      ∀ a, Outside a tr1.phys 4 → Outside a tr2.phys 4 →
        (∀ p pte, (tr1.dirty = some (p, pte) ∨ tr2.dirty = some (p, pte)) → Outside a p 2) →
        Memory.read m a = Memory.read s.main a

/-- What trap entry saves and does not save, with the MMU on or off, unless it is a double fault (R313). -/
def Obligations.TrapEntryFrame : Prop :=
  ∀ (s : State) (k : TrapKind) (v : BitVec 8) (savePc : Word), s.trapEntry k v savePc ≠ s.doubleFault →
    (s.trapEntry k v savePc).supervisor = true ∧
    (s.trapEntry k v savePc).priority = (match k with | .interrupt p => p | .fault => s.priority | .trap => s.priority) ∧
    (s.trapEntry k v savePc).irqEnabled = s.irqEnabled ∧ (s.trapEntry k v savePc).mmuOn = s.mmuOn ∧
    (s.trapEntry k v savePc).ivtField = s.ivtField ∧ (s.trapEntry k v savePc).pdtField = s.pdtField ∧
    (s.trapEntry k v savePc).resField = s.resField ∧ (s.trapEntry k v savePc).regs = s.regs ∧
    (s.trapEntry k v savePc).usp = s.usp ∧ (s.trapEntry k v savePc).ssp = s.ssp - 8 ∧
    (s.trapEntry k v savePc).inFault = (s.inFault || decide (k = .fault)) ∧
    (s.trapEntry k v savePc).halted = s.halted ∧ (s.trapEntry k v savePc).pending = s.pending ∧
    (s.trapEntry k v savePc).data = s.data ∧ (s.trapEntry k v savePc).pc = s.vectorEntry v ∧
    (s.trapEntry k v savePc).schedule = s.schedule ∧ (s.trapEntry k v savePc).deviceRegion = s.deviceRegion ∧
    (s.trapEntry k v savePc).draws = s.draws

/-- `sysret` after a trap entry with the MMU off: everything is as it was but the frame's bytes, with `pc` the saved
one and no fault being processed (decisions D13, D14). -/
def Obligations.TrapThenReturn : Prop :=
  ∀ (s : State) (k : TrapKind) (v : BitVec 8) (savePc : Word),
    s.mmuOn = false → s.ssp.toNat % 4 = 0 → 8 ≤ s.ssp.toNat → s.ssp.toNat ≤ 2 ^ 24 →
    ¬ (k = .fault ∧ s.inFault = true) →
    exec .sysret (s.trapEntry k v savePc) =
      .next { s with pc := savePc, inFault := false, main := (s.trapEntry k v savePc).main }

/-- A double fault sets `halted` and nothing else: a fault while one is processed, or a trap entry of any kind whose
pushes a check stops, be it a misaligned stack, one outside main memory or, with the MMU on, an absent page. The step
of a halted machine is the fault `halted`, and no other step is (decision D15; log 10). -/
def Obligations.DoubleFaultHalts : Prop :=
  (∀ (s : State) (v : BitVec 8) (savePc : Word), s.inFault = true →
    s.trapEntry .fault v savePc = { s with halted := true }) ∧
  (∀ (s : State) (k : TrapKind) (v : BitVec 8) (savePc : Word),
    (s.ssp.toNat % 4 ≠ 0 ∨ s.ssp.toNat < 8 ∨ 2 ^ 24 < s.ssp.toNat) →
    s.trapEntry k v savePc = { s with halted := true }) ∧
  (∀ (s : State) (k : TrapKind) (v : BitVec 8) (savePc : Word) (e : Stop),
    (s.asSupervisor.locate (s.ssp - 4) .write .word = .error e ∨
      s.asSupervisor.locate (s.ssp - 8) .write .word = .error e) →
    s.trapEntry k v savePc = { s with halted := true }) ∧
  ∀ s : State, (s.halted = true ↔ step s = .fault .halted)

/-- Each of the ten privileged instructions takes Privilege Violation in user mode, before it computes any address
or reads any operand (decision D10). -/
def Obligations.PrivilegedInUserMode : Prop :=
  Exc.privilegeViolation.vector = 0x06 ∧
  ∀ s : State, s.supervisor = false →
    (∀ rs1, TakesFault (.ssreg rs1) s .privilegeViolation) ∧ TakesFault .sysret s .privilegeViolation ∧
    ∀ (r b : RegNum) (off : Int),
      TakesFault (.lbd r b off) s .privilegeViolation ∧ TakesFault (.lbud r b off) s .privilegeViolation ∧
      TakesFault (.lhd r b off) s .privilegeViolation ∧ TakesFault (.lhud r b off) s .privilegeViolation ∧
      TakesFault (.lwd r b off) s .privilegeViolation ∧ TakesFault (.sbd r b off) s .privilegeViolation ∧
      TakesFault (.shd r b off) s .privilegeViolation ∧ TakesFault (.swd r b off) s .privilegeViolation

/-- Division by Zero (R344): `idivi` by 0 and `idiv` by a register that is 0 take the fault of vector 5, no
destination written; no other division does, `INT_MIN / -1` included. -/
def Obligations.DivisionByZero : Prop :=
  Exc.divisionByZero.vector = 0x05 ∧
  ∀ (s : State) (rd rd2 rs1 rs2 : RegNum) (imm : Int), fitsImm15 imm = true →
    (imm = 0 → exec (.idivi rd rs1 imm) s = .next (s.trapEntry .fault 0x05 (s.pc - 4))) ∧
    (imm ≠ 0 → ∃ t, exec (.idivi rd rs1 imm) s = .next t ∧ RegisterFrame s t [rd] ∧ t.pc = s.pc) ∧
    (s.reg rs2 = 0 → exec (.idiv rd rd2 rs1 rs2) s = .next (s.trapEntry .fault 0x05 (s.pc - 4))) ∧
    (s.reg rs2 ≠ 0 → ∃ t, exec (.idiv rd rd2 rs1 rs2) s = .next t ∧ RegisterFrame s t [rd, rd2] ∧ t.pc = s.pc) ∧
    (∀ v savePc, (s.trapEntry .fault v savePc).regs = s.regs ∧ (s.trapEntry .fault v savePc).usp = s.usp)

/-! Memory. -/

/-- The checks of an access of main memory (R60, R61, R62), whatever it is for: alignment, then the range, then
translation while the MMU is on; then the read, the dirty bit and the write, or the fetch at the physical address
(decisions D6, D7, D17, D23; `ALIGN_CHECK` and `MEM_SIZE` at the values of log 12). -/
def Obligations.MainAccessChecks : Prop :=
  (∀ (s : State) (va : Word) (kind : AccessKind) (size : Size),
    (va.toNat % size.bytes ≠ 0 → s.locate va kind size = .error (.raise .addressError)) ∧
    (va.toNat % size.bytes = 0 → 2 ^ 24 < va.toNat + size.bytes →
      s.locate va kind size = .error (.raise .busError)) ∧
    (va.toNat % size.bytes = 0 → va.toNat + size.bytes ≤ 2 ^ 24 → s.mmuOn = false →
      s.locate va kind size = .ok { phys := va.toNat, dirty := none }) ∧
    (va.toNat % size.bytes = 0 → va.toNat + size.bytes ≤ 2 ^ 24 → s.mmuOn = true →
      s.locate va kind size = s.translate va kind size)) ∧
  (∀ (s : State) (va : Word) (size : Size),
    (∀ e, s.locate va .read size = .error e → s.memRead va size = .error e) ∧
    (∀ tr, s.locate va .read size = .ok tr → s.memRead va size = .ok (Memory.load s.main tr.phys size))) ∧
  (∀ (s : State) (va : Word) (size : Size) (v : Word),
    (∀ e, s.locate va .write size = .error e → s.memWrite va size v = .error e) ∧
    (∀ tr, s.locate va .write size = .ok tr → s.memWrite va size v = .ok ((s.setDirty tr).physWrite tr.phys size v))) ∧
  (∀ s : State,
    (∀ e, s.locate s.pc .fetch .word = .error e → s.fetch = .error e) ∧
    (∀ tr, s.locate s.pc .fetch .word = .ok tr → s.fetch = .ok (Memory.load s.main tr.phys .word)))

/-- Translation of an aligned access, in numbers: which entries are read, the three checks in order, the physical
address and the dirty bit; no Bus Error with `2^24` bytes of memory (decision D23). -/
def Obligations.TranslationRule : Prop :=
  ∀ (s : State) (va : Word) (kind : AccessKind) (size : Size), va.toNat % size.bytes = 0 →
    ∀ pde pteAddr pte : Nat,
      pde = (Memory.load s.data (256 * s.pdtField.toNat + 2 * (va.toNat / 2 ^ 22 % 4)) .half).toNat →
      pteAddr = pde / 16 * 4096 + 2 * (va.toNat / 2 ^ 12 % 1024) →
      pte = (Memory.load s.main pteAddr .half).toNat →
      (pte % 2 = 0 → s.translate va kind size = .error (.raise .pageFault)) ∧
      (pte % 2 = 1 → s.supervisor = false → kind = .write → pte / 8 % 2 = 0 →
        s.translate va kind size = .error (.raise .accessViolation)) ∧
      (pte % 2 = 1 → s.supervisor = false → kind = .fetch → pte / 4 % 2 = 0 →
        s.translate va kind size = .error (.raise .accessViolation)) ∧
      (pte % 2 = 1 → (s.supervisor = true ∨ kind = .read ∨ kind = .write ∧ pte / 8 % 2 = 1 ∨
          kind = .fetch ∧ pte / 4 % 2 = 1) →
        s.translate va kind size = .ok
          { phys := pte / 16 * 4096 + va.toNat % 4096
            dirty := if kind = .write ∧ pte / 2 % 2 = 0 then some (pteAddr, BitVec.ofNat 32 (pte + 2)) else none })

/-- Page Fault and Access Violation come only from the MMU, Access Violation never in supervisor mode and never from
a read (decision D23). -/
def Obligations.PagingFaultsOnlyByTranslation : Prop :=
  Exc.pageFault.vector = 0x07 ∧ Exc.accessViolation.vector = 0x08 ∧
  ∀ (s : State) (va : Word) (kind : AccessKind) (size : Size),
    (s.locate va kind size = .error (.raise .pageFault) → s.mmuOn = true) ∧
    (s.locate va kind size = .error (.raise .accessViolation) →
      s.mmuOn = true ∧ s.supervisor = false ∧ kind ≠ .read) ∧
    (∀ e, s.locate va kind size = .error e →
      e = .raise .addressError ∨ e = .raise .busError ∨ e = .raise .pageFault ∨ e = .raise .accessViolation)

/-- A translated write sets the dirty bit of its page's entry, if it was clear, and stores; where the two ranges of
bytes are apart both can be read back (decisions D3, D23). -/
def Obligations.DirtyBitSet : Prop :=
  ∀ (s t : State) (va : Word) (size : Size) (v : Word) (tr : Translation),
    s.mmuOn = true → s.locate va .write size = .ok tr → s.memWrite va size v = .ok t →
    Apart (s.pteAddr va) 2 tr.phys size.bytes →
    (Memory.load t.main (s.pteAddr va) .half).getLsbD 1 = true ∧
    Memory.load t.main (s.pteAddr va) .half = Memory.load s.main (s.pteAddr va) .half ||| 2 ∧
    Memory.load t.main tr.phys size = zeroExtended size v ∧
    ∀ a, Outside a tr.phys size.bytes → Outside a (s.pteAddr va) 2 → Memory.read t.main a = Memory.read s.main a

/-- A load after a store of the same width through the same base and offset gives the stored bytes, in both
memories, and the byte at the lowest address is the most significant (decisions D3, D6; that a device port keeps what
is stored is the model's choice, log 5). -/
def Obligations.LoadAfterStore : Prop :=
  ∀ (s : State) (rd rs1 rs2 : RegNum) (off : Int), rd ≠ 0 →
    (PlainAccess s (s.effAddr rs2 off) .word →
      ∃ t u x, exec (.sw rs1 rs2 off) s = .next t ∧ exec (.lw rd rs2 off) t = .next u ∧ u.reg rd = s.reg rs1 ∧
        exec (.lbu rd rs2 off) t = .next x ∧ x.reg rd = s.reg rs1 >>> 24) ∧
    (PlainAccess s (s.effAddr rs2 off) .half →
      ∃ t u x, exec (.sh rs1 rs2 off) s = .next t ∧ exec (.lhu rd rs2 off) t = .next u ∧
        u.reg rd = s.reg rs1 &&& 0xFFFF ∧ exec (.lh rd rs2 off) t = .next x ∧
        x.reg rd = ((s.reg rs1).setWidth 16).signExtend 32) ∧
    (PlainAccess s (s.effAddr rs2 off) .byte →
      ∃ t u x, exec (.sb rs1 rs2 off) s = .next t ∧ exec (.lbu rd rs2 off) t = .next u ∧
        u.reg rd = s.reg rs1 &&& 0xFF ∧ exec (.lb rd rs2 off) t = .next x ∧
        x.reg rd = ((s.reg rs1).setWidth 8).signExtend 32) ∧
    (s.supervisor = true → DataAccess (s.effAddr rs2 off) .word →
      ∃ t u x, exec (.swd rs1 rs2 off) s = .next t ∧ exec (.lwd rd rs2 off) t = .next u ∧ u.reg rd = s.reg rs1 ∧
        exec (.lbud rd rs2 off) t = .next x ∧ x.reg rd = s.reg rs1 >>> 24) ∧
    (s.supervisor = true → DataAccess (s.effAddr rs2 off) .half →
      ∃ t u x, exec (.shd rs1 rs2 off) s = .next t ∧ exec (.lhud rd rs2 off) t = .next u ∧
        u.reg rd = s.reg rs1 &&& 0xFFFF ∧ exec (.lhd rd rs2 off) t = .next x ∧
        x.reg rd = ((s.reg rs1).setWidth 16).signExtend 32) ∧
    (s.supervisor = true → DataAccess (s.effAddr rs2 off) .byte →
      ∃ t u x, exec (.sbd rs1 rs2 off) s = .next t ∧ exec (.lbud rd rs2 off) t = .next u ∧
        u.reg rd = s.reg rs1 &&& 0xFF ∧ exec (.lbd rd rs2 off) t = .next x ∧
        x.reg rd = ((s.reg rs1).setWidth 8).signExtend 32)

/-- An access that a check stops makes its instruction take that fault, its own address saved and nothing else
changed: in main memory the fault of the check, in data memory (supervisor) Address Error where misaligned, else Bus
Error beyond `2^16`. An instruction of several accesses takes the fault of the first that a check stops, having
performed none (decisions D6, D7, D17, D33). -/
def Obligations.AccessFaults : Prop :=
  Exc.busError.vector = 0x02 ∧ Exc.addressError.vector = 0x03 ∧
  ∀ (s : State) (r b : RegNum) (off : Int) (e : Exc),
    (s.locate (s.effAddr b off) .read .byte = .error (.raise e) →
      TakesFault (.lb r b off) s e ∧ TakesFault (.lbu r b off) s e) ∧
    (s.locate (s.effAddr b off) .read .half = .error (.raise e) →
      TakesFault (.lh r b off) s e ∧ TakesFault (.lhu r b off) s e) ∧
    (s.locate (s.effAddr b off) .read .word = .error (.raise e) → TakesFault (.lw r b off) s e) ∧
    (s.locate (s.effAddr b off) .write .byte = .error (.raise e) → TakesFault (.sb r b off) s e) ∧
    (s.locate (s.effAddr b off) .write .half = .error (.raise e) → TakesFault (.sh r b off) s e) ∧
    (s.locate (s.effAddr b off) .write .word = .error (.raise e) → TakesFault (.sw r b off) s e) ∧
    (s.locate (s.reg b) .read .byte = .error (.raise e) → TakesFault (.popb r b) s e) ∧
    (s.locate (s.reg b) .read .half = .error (.raise e) → TakesFault (.poph r b) s e) ∧
    (s.locate (s.reg b) .read .word = .error (.raise e) →
      TakesFault (.pop r b) s e ∧ TakesFault (.fromPtr r b) s e ∧ TakesFault (.through r b) s e) ∧
    (s.locate (s.reg b - 1) .write .byte = .error (.raise e) → TakesFault (.pushb r b) s e) ∧
    (s.locate (s.reg b - 2) .write .half = .error (.raise e) → TakesFault (.pushh r b) s e) ∧
    (s.locate (s.reg b - 4) .write .word = .error (.raise e) → TakesFault (.push r b) s e) ∧
    (∀ tr, s.locate (s.reg b) .read .word = .ok tr →
      (s.locate (Memory.load s.main tr.phys .word) .read .word = .error (.raise e) → TakesFault (.fromPtr r b) s e) ∧
      (s.locate (Memory.load s.main tr.phys .word) .write .word = .error (.raise e) →
        TakesFault (.through r b) s e)) ∧
    (∀ c : RegNum,
      (FirstStop s (copyAccesses (s.reg r) (s.reg b) (s.reg c).toNat) e → TakesFault (.copy r b c) s e) ∧
      (FirstStop s (swapAccesses (s.reg r) (s.reg b) (s.reg c).toNat) e → TakesFault (.swap r b c) s e) ∧
      (FirstStop s (fillAccesses (s.reg r) (s.reg b).toNat) e → TakesFault (.fill r b c) s e) ∧
      (FirstStop s (rangeAccesses .write (s.reg c) (b.toNat + 1 - r.toNat)) e → TakesFault (.save r b c) s e) ∧
      (FirstStop s (rangeAccesses .read (s.reg c) (b.toNat + 1 - r.toNat)) e → TakesFault (.restore r b c) s e)) ∧
    (s.supervisor = true →
      ((s.effAddr b off).toNat % 2 = 1 →
        TakesFault (.lhd r b off) s .addressError ∧ TakesFault (.lhud r b off) s .addressError ∧
        TakesFault (.shd r b off) s .addressError) ∧
      ((s.effAddr b off).toNat % 4 ≠ 0 →
        TakesFault (.lwd r b off) s .addressError ∧ TakesFault (.swd r b off) s .addressError) ∧
      (2 ^ 16 ≤ (s.effAddr b off).toNat →
        TakesFault (.lbd r b off) s .busError ∧ TakesFault (.lbud r b off) s .busError ∧
        TakesFault (.sbd r b off) s .busError ∧
        ((s.effAddr b off).toNat % 2 = 0 →
          TakesFault (.lhd r b off) s .busError ∧ TakesFault (.lhud r b off) s .busError ∧
          TakesFault (.shd r b off) s .busError) ∧
        ((s.effAddr b off).toNat % 4 = 0 →
          TakesFault (.lwd r b off) s .busError ∧ TakesFault (.swd r b off) s .busError)))

/-! U, J, B and `jalr`. -/

/-- `lui` (R140). -/
def Obligations.LoadUpperImmediate : Prop :=
  EncodedBy 0xFE000000 0x42000000 (fun w => .lui (fieldA w) (imm20 w)) ∧
  decode 0x423ABCDE = .ok (.lui 3 0xABCDE) ∧
  ∀ (s : State) (rd : RegNum) (imm : BitVec 20), WritesReg (.lui rd imm) s rd (imm.setWidth 32 <<< 12)

/-- `auipc` adds to `pc`, `jal` links it and jumps relative to it, `pc` being the address of the next instruction
(decisions D4, D5). -/
def Obligations.ProgramCounterRelative : Prop :=
  ∀ (s : State) (rd : RegNum) (imm : BitVec 20) (off : Int),
    WritesReg (.auipc rd imm) s rd (BitVec.ofNat 32 (imm.toNat * 4096 + s.pc.toNat)) ∧
    ∃ t, exec (.jal rd off) s = .next t ∧ t.pc = BitVec.ofInt 32 (s.pc.toNat + off) ∧
      t.reg rd = (if rd = 0 then 0 else s.pc) ∧ RegisterFrame s t [rd]

/-- The six branches: the target is `pc` plus the byte offset if the condition holds, else `pc` stays; nothing else
changes; a register compared with itself; an aligned `pc` gives an aligned target (decisions D4, D5). -/
def Obligations.ConditionalBranches : Prop :=
  ∀ (s : State) (rs1 rs2 : RegNum) (off : Int), fitsJump15 off = true →
    exec (.beq rs1 rs2 off) s =
      .next { s with pc := if s.reg rs1 = s.reg rs2 then BitVec.ofInt 32 (s.pc.toNat + off) else s.pc } ∧
    exec (.bne rs1 rs2 off) s =
      .next { s with pc := if s.reg rs1 ≠ s.reg rs2 then BitVec.ofInt 32 (s.pc.toNat + off) else s.pc } ∧
    exec (.blt rs1 rs2 off) s =
      .next { s with pc := if (s.reg rs1).toInt < (s.reg rs2).toInt then BitVec.ofInt 32 (s.pc.toNat + off) else s.pc } ∧
    exec (.bge rs1 rs2 off) s =
      .next { s with pc := if (s.reg rs1).toInt ≥ (s.reg rs2).toInt then BitVec.ofInt 32 (s.pc.toNat + off) else s.pc } ∧
    exec (.bltu rs1 rs2 off) s =
      .next { s with pc := if (s.reg rs1).toNat < (s.reg rs2).toNat then BitVec.ofInt 32 (s.pc.toNat + off) else s.pc } ∧
    exec (.bgeu rs1 rs2 off) s =
      .next { s with pc := if (s.reg rs1).toNat ≥ (s.reg rs2).toNat then BitVec.ofInt 32 (s.pc.toNat + off) else s.pc } ∧
    (s.pc.toNat % 4 = 0 → (BitVec.ofInt 32 (s.pc.toNat + off) : Word).toNat % 4 = 0)

/-- `jalr` links the next instruction's address and jumps to the old value of the base plus the offset, also where
the link register is the base (decisions D4, D5, D27). -/
def Obligations.JumpAndLinkRegister : Prop :=
  ∀ (s : State) (rd rs1 : RegNum) (off : Int),
    ∃ t, exec (.jalr rd rs1 off) s = .next t ∧ t.pc = BitVec.ofInt 32 ((s.reg rs1).toNat + off) ∧
      t.reg rd = (if rd = 0 then 0 else s.pc) ∧ RegisterFrame s t [rd]

/-! Loads and stores. -/

/-- A load from main memory whose access the checks allow, at the physical address they give: the bytes, the first
the most significant, sign- or zero-extended, and nothing else changed (decisions D3, D6, D7, D23). -/
def Obligations.MainLoads : Prop :=
  ∀ (s : State) (rd rs1 : RegNum) (off : Int) (tr : Translation),
    (s.locate (s.effAddr rs1 off) .read .byte = .ok tr →
      WritesReg (.lb rd rs1 off) s rd ((Memory.read s.main tr.phys).signExtend 32) ∧
      WritesReg (.lbu rd rs1 off) s rd ((Memory.read s.main tr.phys).setWidth 32)) ∧
    (s.locate (s.effAddr rs1 off) .read .half = .ok tr →
      WritesReg (.lh rd rs1 off) s rd
        ((Memory.read s.main tr.phys ++ Memory.read s.main (tr.phys + 1)).signExtend 32) ∧
      WritesReg (.lhu rd rs1 off) s rd
        ((Memory.read s.main tr.phys ++ Memory.read s.main (tr.phys + 1)).setWidth 32)) ∧
    (s.locate (s.effAddr rs1 off) .read .word = .ok tr →
      WritesReg (.lw rd rs1 off) s rd
        (Memory.read s.main tr.phys ++ Memory.read s.main (tr.phys + 1) ++ Memory.read s.main (tr.phys + 2) ++
          Memory.read s.main (tr.phys + 3)))

/-- A supervisor's load from data memory of an aligned address inside it (decisions D3, D6, D7; that a device port has
no effect of its own on the load is the model's choice, log 5). -/
def Obligations.DataLoads : Prop :=
  ∀ (s : State) (rd rs1 : RegNum) (off : Int) (a : Nat), s.supervisor = true → a = (s.effAddr rs1 off).toNat →
    (DataAccess (s.effAddr rs1 off) .byte →
      WritesReg (.lbd rd rs1 off) s rd ((Memory.read s.data a).signExtend 32) ∧
      WritesReg (.lbud rd rs1 off) s rd ((Memory.read s.data a).setWidth 32)) ∧
    (DataAccess (s.effAddr rs1 off) .half →
      WritesReg (.lhd rd rs1 off) s rd ((Memory.read s.data a ++ Memory.read s.data (a + 1)).signExtend 32) ∧
      WritesReg (.lhud rd rs1 off) s rd ((Memory.read s.data a ++ Memory.read s.data (a + 1)).setWidth 32)) ∧
    (DataAccess (s.effAddr rs1 off) .word →
      WritesReg (.lwd rd rs1 off) s rd
        (Memory.read s.data a ++ Memory.read s.data (a + 1) ++ Memory.read s.data (a + 2) ++
          Memory.read s.data (a + 3)))

/-- A store to main memory whose access the checks allow, in either mode: the low bytes of `rs1`, the first the most
significant, at the physical address, and nothing else changed but a dirty bit (decisions D3, D6, D7, D23; `sh` and
`sw` unprivileged by conflict C6). -/
def Obligations.MainStores : Prop :=
  ∀ (s : State) (rs1 rs2 : RegNum) (off : Int) (tr : Translation),
    (s.locate (s.effAddr rs2 off) .write .byte = .ok tr → StoresMain (.sb rs1 rs2 off) s tr .byte (s.reg rs1)) ∧
    (s.locate (s.effAddr rs2 off) .write .half = .ok tr → StoresMain (.sh rs1 rs2 off) s tr .half (s.reg rs1)) ∧
    (s.locate (s.effAddr rs2 off) .write .word = .ok tr → StoresMain (.sw rs1 rs2 off) s tr .word (s.reg rs1))

/-- A supervisor's store to data memory at an aligned address inside it (decisions D3, D6, D7; that a device port keeps
what is stored and answers in a later step only is the model's choice, log 5). -/
def Obligations.DataStores : Prop :=
  ∀ (s : State) (rs1 rs2 : RegNum) (off : Int), s.supervisor = true →
    (DataAccess (s.effAddr rs2 off) .byte →
      StoresData (.sbd rs1 rs2 off) s (s.effAddr rs2 off).toNat .byte (s.reg rs1)) ∧
    (DataAccess (s.effAddr rs2 off) .half →
      StoresData (.shd rs1 rs2 off) s (s.effAddr rs2 off).toNat .half (s.reg rs1)) ∧
    (DataAccess (s.effAddr rs2 off) .word →
      StoresData (.swd rs1 rs2 off) s (s.effAddr rs2 off).toNat .word (s.reg rs1))

/-! Arithmetic with an immediate. -/

/-- The products, sums, bitwise operations and the quotient (rounded toward zero, by a divisor that is not 0) with a
sign-extended immediate, by exact integers (decisions D18, D19). -/
def Obligations.ImmediateArithmetic : Prop :=
  ∀ (s : State) (rd rs1 : RegNum) (imm : Int), fitsImm15 imm = true →
    WritesReg (.muli rd rs1 imm) s rd (BitVec.ofInt 32 ((s.reg rs1).toInt * imm)) ∧
    WritesReg (.mulih rd rs1 imm) s rd (BitVec.ofInt 32 ((s.reg rs1).toInt * imm / 2 ^ 32)) ∧
    WritesReg (.addi rd rs1 imm) s rd (BitVec.ofInt 32 ((s.reg rs1).toInt + imm)) ∧
    WritesReg (.subi rd rs1 imm) s rd (BitVec.ofInt 32 ((s.reg rs1).toInt - imm)) ∧
    WritesReg (.ori rd rs1 imm) s rd (s.reg rs1 ||| (BitVec.ofInt 15 imm).signExtend 32) ∧
    WritesReg (.andi rd rs1 imm) s rd (s.reg rs1 &&& (BitVec.ofInt 15 imm).signExtend 32) ∧
    WritesReg (.xori rd rs1 imm) s rd (s.reg rs1 ^^^ (BitVec.ofInt 15 imm).signExtend 32) ∧
    (imm ≠ 0 → WritesReg (.idivi rd rs1 imm) s rd (BitVec.ofInt 32 ((s.reg rs1).toInt.tdiv imm)))

/-- The shifts by the low 5 bits of the immediate, as division and multiplication by a power of 2 (decision D20). -/
def Obligations.ImmediateShifts : Prop :=
  ∀ (s : State) (rd rs1 : RegNum) (imm : Int) (k : Nat), fitsImm15 imm = true → (k : Int) = imm % 32 →
    WritesReg (.shira rd rs1 imm) s rd (BitVec.ofInt 32 ((s.reg rs1).toInt / 2 ^ k)) ∧
    WritesReg (.shirl rd rs1 imm) s rd (BitVec.ofNat 32 ((s.reg rs1).toNat / 2 ^ k)) ∧
    WritesReg (.shill rd rs1 imm) s rd (BitVec.ofNat 32 ((s.reg rs1).toNat * 2 ^ k))

/-! Register arithmetic. -/

/-- `add`, `sub`, `or`, `and`, `xor`, `not`: their words (R211, R212, R215 to R218), results by integers or bit by
bit, and nothing else changed. -/
def Obligations.RegisterArithmetic : Prop :=
  EncodedBy 0xFE0003FF 0xC0000000 (fun w => .add (fieldA w) (fieldB w) (fieldC w)) ∧
  EncodedBy 0xFE0003FF 0xC2000000 (fun w => .sub (fieldA w) (fieldB w) (fieldC w)) ∧
  EncodedBy 0xFE0003FF 0xC8000000 (fun w => .or (fieldA w) (fieldB w) (fieldC w)) ∧
  EncodedBy 0xFE0003FF 0xCA000000 (fun w => .and (fieldA w) (fieldB w) (fieldC w)) ∧
  EncodedBy 0xFE0003FF 0xCC000000 (fun w => .xor (fieldA w) (fieldB w) (fieldC w)) ∧
  EncodedBy 0xFE007FFF 0xCE000000 (fun w => .not (fieldA w) (fieldB w)) ∧
  ∀ (s : State) (rd rs1 rs2 : RegNum),
    WritesReg (.add rd rs1 rs2) s rd (BitVec.ofNat 32 ((s.reg rs1).toNat + (s.reg rs2).toNat)) ∧
    WritesReg (.sub rd rs1 rs2) s rd (BitVec.ofInt 32 ((s.reg rs1).toNat - (s.reg rs2).toNat)) ∧
    ∃ o a x n : Word,
      WritesReg (.or rd rs1 rs2) s rd o ∧ WritesReg (.and rd rs1 rs2) s rd a ∧ WritesReg (.xor rd rs1 rs2) s rd x ∧
      WritesReg (.not rd rs1) s rd n ∧
      ∀ k, k < 32 →
        (o.getLsbD k = true ↔ (s.reg rs1).getLsbD k = true ∨ (s.reg rs2).getLsbD k = true) ∧
        (a.getLsbD k = true ↔ (s.reg rs1).getLsbD k = true ∧ (s.reg rs2).getLsbD k = true) ∧
        (x.getLsbD k = true ↔ ¬ ((s.reg rs1).getLsbD k = (s.reg rs2).getLsbD k)) ∧
        (n.getLsbD k = true ↔ (s.reg rs1).getLsbD k = false)

/-- `ctz`, `clz` and `popcount`: the least and the greatest set bit, and how many are set; 32, 32 and 0 of zero
(decision D20). -/
def Obligations.BitCounts : Prop :=
  ∀ (s : State) (rd rs1 : RegNum),
    ∃ z l : Nat,
      WritesReg (.ctz rd rs1) s rd (BitVec.ofNat 32 z) ∧ WritesReg (.clz rd rs1) s rd (BitVec.ofNat 32 l) ∧
      WritesReg (.popcount rd rs1) s rd
        (BitVec.ofNat 32 ((Finset.range 32).filter (fun k => (s.reg rs1).getLsbD k = true)).card) ∧
      z ≤ 32 ∧ (∀ k, k < z → (s.reg rs1).getLsbD k = false) ∧ (z < 32 → (s.reg rs1).getLsbD z = true) ∧
      l ≤ 32 ∧ (∀ k, k < l → (s.reg rs1).getLsbD (31 - k) = false) ∧
      (l < 32 → (s.reg rs1).getLsbD (31 - l) = true) ∧
      (s.reg rs1 = 0 → z = 32 ∧ l = 32)

/-- The shifts and rotations by the low 5 bits of a register, the shifts as division and multiplication by a power
of 2, the rotations bit by bit (decision D20). -/
def Obligations.RegisterShifts : Prop :=
  ∀ (s : State) (rd rs1 rs2 : RegNum) (k : Nat), k = (s.reg rs2).toNat % 32 →
    WritesReg (.shra rd rs1 rs2) s rd (BitVec.ofInt 32 ((s.reg rs1).toInt / 2 ^ k)) ∧
    WritesReg (.shrl rd rs1 rs2) s rd (BitVec.ofNat 32 ((s.reg rs1).toNat / 2 ^ k)) ∧
    WritesReg (.shll rd rs1 rs2) s rd (BitVec.ofNat 32 ((s.reg rs1).toNat * 2 ^ k)) ∧
    ∃ r l : Word, WritesReg (.ror rd rs1 rs2) s rd r ∧ WritesReg (.rol rd rs1 rs2) s rd l ∧
      ∀ j, j < 32 → r.getLsbD j = (s.reg rs1).getLsbD ((j + k) % 32) ∧
        l.getLsbD ((j + k) % 32) = (s.reg rs1).getLsbD j

/-- `mul`: the exact signed product, its high word in `rd`, then its low word in `rd2` (decisions D19, D27). -/
def Obligations.SignedMultiply : Prop :=
  ∀ (s : State) (rd rd2 rs1 rs2 : RegNum),
    ∃ (t : State) (high low : Word), exec (.mul rd rd2 rs1 rs2) s = .next t ∧
      high.toInt * 2 ^ 32 + low.toNat = (s.reg rs1).toInt * (s.reg rs2).toInt ∧
      t.reg rd2 = (if rd2 = 0 then 0 else low) ∧ (rd ≠ rd2 → t.reg rd = (if rd = 0 then 0 else high)) ∧
      RegisterFrame s t [rd, rd2] ∧ t.pc = s.pc

/-- `idiv` by a non-zero divisor: quotient in `rd`, then remainder in `rd2`; the remainder is smaller than the divisor
and has the dividend's sign; `0x80000000 / -1` wraps (decisions D18, D27). -/
def Obligations.SignedDivide : Prop :=
  ∀ (s : State) (rd rd2 rs1 rs2 : RegNum), s.reg rs2 ≠ 0 →
    ∃ (t : State) (q r : Word), exec (.idiv rd rd2 rs1 rs2) s = .next t ∧
      t.reg rd2 = (if rd2 = 0 then 0 else r) ∧ (rd ≠ rd2 → t.reg rd = (if rd = 0 then 0 else q)) ∧
      RegisterFrame s t [rd, rd2] ∧ t.pc = s.pc ∧
      r.toInt.natAbs < (s.reg rs2).toInt.natAbs ∧ (0 ≤ (s.reg rs1).toInt → 0 ≤ r.toInt) ∧
      ((s.reg rs1).toInt ≤ 0 → r.toInt ≤ 0) ∧
      (¬ (s.reg rs1 = 0x80000000 ∧ s.reg rs2 = 0xFFFFFFFF) →
        q.toInt * (s.reg rs2).toInt + r.toInt = (s.reg rs1).toInt) ∧
      (s.reg rs1 = 0x80000000 ∧ s.reg rs2 = 0xFFFFFFFF → q = 0x80000000 ∧ r = 0)

/-! M instructions. -/

/-- The pops: the loaded value zero-extended in `rd`, the pointer up by the item's size; a register that is both ends
with the value (decisions D12, D27, D31). -/
def Obligations.Pops : Prop :=
  ∀ (s : State) (rd sp : RegNum) (size : Size) (i : Instr) (tr : Translation),
    (size = .byte ∧ i = .popb rd sp ∨ size = .half ∧ i = .poph rd sp ∨ size = .word ∧ i = .pop rd sp) →
    s.locate (s.reg sp) .read size = .ok tr →
    ∃ t, exec i s = .next t ∧ RegisterFrame s t [rd, sp] ∧ t.pc = s.pc ∧
      t.reg rd = (if rd = 0 then 0 else Memory.load s.main tr.phys size) ∧
      (sp ≠ rd → t.reg sp = (if sp = 0 then 0 else s.reg sp + BitVec.ofNat 32 size.bytes))

/-- The pushes: the low bytes of `rd` below the old pointer, the pointer down by the item's size; refused if the stored
bytes change the page table entry the store uses (decisions D12, D27, D31; R240, log 14). -/
def Obligations.Pushes : Prop :=
  ∀ (s : State) (rd sp : RegNum) (size : Size) (i : Instr) (tr : Translation),
    (size = .byte ∧ i = .pushb rd sp ∨ size = .half ∧ i = .pushh rd sp ∨ size = .word ∧ i = .push rd sp) →
    s.locate (s.reg sp - BitVec.ofNat 32 size.bytes) .write size = .ok tr →
    (¬ ChangesUsedEntry s (s.entriesOf (s.reg sp - BitVec.ofNat 32 size.bytes) size) tr size (s.reg rd) →
      ∃ t, exec i s = .next t ∧ SameControl s t ∧ SameData s t ∧ SameRegsBut s t [sp] ∧ t.pc = s.pc ∧
        t.reg sp = (if sp = 0 then 0 else s.reg sp - BitVec.ofNat 32 size.bytes) ∧ Stored s t tr size (s.reg rd)) ∧
    (ChangesUsedEntry s (s.entriesOf (s.reg sp - BitVec.ofNat 32 size.bytes) size) tr size (s.reg rd) →
      exec i s = .refused .ownPageTableChanged)

/-- A push and a pop of the same width, MMU off: the value comes back and the pointer is as before (decisions D12,
D31). -/
def Obligations.PushThenPop : Prop :=
  ∀ (s : State) (rd rd2 sp : RegNum), sp ≠ 0 → rd2 ≠ 0 → rd2 ≠ sp →
    (PlainAccess s (s.reg sp - 4) .word →
      ∃ t u, exec (.push rd sp) s = .next t ∧ exec (.pop rd2 sp) t = .next u ∧ u.reg sp = s.reg sp ∧
        u.reg rd2 = s.reg rd) ∧
    (PlainAccess s (s.reg sp - 2) .half →
      ∃ t u, exec (.pushh rd sp) s = .next t ∧ exec (.poph rd2 sp) t = .next u ∧ u.reg sp = s.reg sp ∧
        u.reg rd2 = s.reg rd &&& 0xFFFF) ∧
    (PlainAccess s (s.reg sp - 1) .byte →
      ∃ t u, exec (.pushb rd sp) s = .next t ∧ exec (.popb rd2 sp) t = .next u ∧ u.reg sp = s.reg sp ∧
        u.reg rd2 = s.reg rd &&& 0xFF)

/-- `save`: register `first + k` in word `k` from the base up, no register changed, nothing at all for an empty range.
First the words share no byte with each other or with a page table entry used: each reads back, and the dirty bits of
the pages are set. Then any words: the writes in sequence, refused if one of them changes a used entry (decisions D23,
D32; R240, log 14). -/
def Obligations.SaveRange : Prop :=
  ∀ (s : State) (first last dest : RegNum) (n : Nat) (tr : Nat → Translation) (used : List Nat),
    n = last.toNat + 1 - first.toNat → used = s.entriesUsed (rangeAccesses .write (s.reg dest) n) →
    (∀ k, k < n → AllowedWrite s (s.reg dest + BitVec.ofNat 32 (4 * k)) .word (tr k)) →
    ((∀ k, k < n → (∀ j, j < n → j ≠ k → Apart (tr j).phys 4 (tr k).phys 4) ∧ ∀ p ∈ used, Apart (tr k).phys 4 p 2) →
      ∃ t, exec (.save first last dest) s = .next t ∧ OnlyMain s t ∧
        (∀ k, k < n → Memory.load t.main (tr k).phys .word = s.reg (first + BitVec.ofNat 5 k)) ∧
        MainOutsideAll s t n 4 tr ∧ DirtyBitsSet t n tr) ∧
    (¬ WritesChangeEntry s used tr .word (fun k _ => s.reg (first + BitVec.ofNat 5 k)) n →
      ∃ t, exec (.save first last dest) s = .next t ∧ OnlyMain s t ∧
        SameMain (s.afterWrites tr .word (fun k _ => s.reg (first + BitVec.ofNat 5 k)) n) t ∧ (n = 0 → t = s)) ∧
    (WritesChangeEntry s used tr .word (fun k _ => s.reg (first + BitVec.ofNat 5 k)) n →
      exec (.save first last dest) s = .refused .ownPageTableChanged)

/-- `restore`: word `k` from the base up in register `first + k`, the base read once; nothing at all for an empty
range (decision D32). -/
def Obligations.RestoreRange : Prop :=
  ∀ (s : State) (first last src : RegNum) (n : Nat) (g : Nat → Nat), n = last.toNat + 1 - first.toNat →
    (∀ k, k < n → AllowedRead s (s.reg src + BitVec.ofNat 32 (4 * k)) .word (g k)) →
    ∃ t, exec (.restore first last src) s = .next t ∧ t.pc = s.pc ∧
      RegisterFrame s t ((List.range n).map (fun k => first + BitVec.ofNat 5 k)) ∧
      (∀ k, k < n → first + BitVec.ofNat 5 k ≠ 0 →
        t.reg (first + BitVec.ofNat 5 k) = Memory.load s.main (g k) .word) ∧ (n = 0 → t = s)

/-- `copy` of buffers that share no physical byte. First no byte of theirs is in a page table entry used: every byte is
copied, the dirty bits of the pages written are set, nothing else changes. Then any such buffers: the bytes in sequence,
refused if a write changes a used entry. Of buffers that share a byte, a refusal (decisions D22, D23, D33; R240;
spec/93_implementation_defined.md U7; log 13, 14). -/
def Obligations.CopyBuffer : Prop :=
  ∀ (s : State) (src dest len : RegNum) (n : Nat) (f : Nat → Nat) (tr : Nat → Translation) (used : List Nat),
    n = (s.reg len).toNat → used = s.entriesUsed (copyAccesses (s.reg src) (s.reg dest) n) →
    (∀ k, k < n → AllowedRead s (s.reg src + BitVec.ofNat 32 k) .byte (f k) ∧
      AllowedWrite s (s.reg dest + BitVec.ofNat 32 k) .byte (tr k)) →
    ((∀ j k, j < n → k < n → f j ≠ (tr k).phys) →
      ((∀ k, k < n → (∀ j, j < n → j ≠ k → (tr j).phys ≠ (tr k).phys) ∧
          ∀ p ∈ used, Apart (f k) 1 p 2 ∧ Apart (tr k).phys 1 p 2) →
        ∃ t, exec (.copy src dest len) s = .next t ∧ OnlyMain s t ∧
          (∀ k, k < n → Memory.read t.main (tr k).phys = Memory.read s.main (f k)) ∧
          MainOutsideAll s t n 1 tr ∧ DirtyBitsSet t n tr) ∧
      (¬ WritesChangeEntry s used tr .byte (fun k t => Memory.load t.main (f k) .byte) n →
        ∃ t, exec (.copy src dest len) s = .next t ∧ OnlyMain s t ∧
          SameMain (s.afterWrites tr .byte (fun k t => Memory.load t.main (f k) .byte) n) t) ∧
      (WritesChangeEntry s used tr .byte (fun k t => Memory.load t.main (f k) .byte) n →
        exec (.copy src dest len) s = .refused .ownPageTableChanged)) ∧
    (∀ j k, j < n → k < n → f j = (tr k).phys → exec (.copy src dest len) s = .refused .overlappingBuffers)

/-- `swap` of buffers that share no physical byte. First no byte of theirs is twice in one of them or in a page table
entry used: every byte of each is in the other, the dirty bits of their pages are set, nothing else changes. Then any
such buffers: the exchanges in sequence, refused if a write changes a used entry. Of buffers that share a byte, a refusal
(decisions D22, D23, D33; R240; spec/93_implementation_defined.md U7; log 13, 14). -/
def Obligations.SwapBuffers : Prop :=
  ∀ (s : State) (buff1 buff2 len : RegNum) (n : Nat) (tr1 tr2 : Nat → Translation) (used : List Nat),
    n = (s.reg len).toNat → used = s.entriesUsed (swapAccesses (s.reg buff1) (s.reg buff2) n) →
    (∀ k, k < n → AllowedRead s (s.reg buff1 + BitVec.ofNat 32 k) .byte (tr1 k).phys ∧
      AllowedRead s (s.reg buff2 + BitVec.ofNat 32 k) .byte (tr2 k).phys ∧
      AllowedWrite s (s.reg buff1 + BitVec.ofNat 32 k) .byte (tr1 k) ∧
      AllowedWrite s (s.reg buff2 + BitVec.ofNat 32 k) .byte (tr2 k)) →
    ((∀ j k, j < n → k < n → (tr1 j).phys ≠ (tr2 k).phys) →
      ((∀ k, k < n → (∀ j, j < n → j ≠ k → (tr1 j).phys ≠ (tr1 k).phys ∧ (tr2 j).phys ≠ (tr2 k).phys) ∧
          ∀ p ∈ used, Apart (tr1 k).phys 1 p 2 ∧ Apart (tr2 k).phys 1 p 2) →
        ∃ t, exec (.swap buff1 buff2 len) s = .next t ∧ OnlyMain s t ∧
          (∀ k, k < n → Memory.read t.main (tr1 k).phys = Memory.read s.main (tr2 k).phys ∧
            Memory.read t.main (tr2 k).phys = Memory.read s.main (tr1 k).phys) ∧
          (∀ a, (∀ k, k < n → a ≠ (tr1 k).phys ∧ a ≠ (tr2 k).phys ∧
              ∀ p pte, ((tr1 k).dirty = some (p, pte) ∨ (tr2 k).dirty = some (p, pte)) → Outside a p 2) →
            Memory.read t.main a = Memory.read s.main a) ∧
          DirtyBitsSet t n tr1 ∧ DirtyBitsSet t n tr2) ∧
      (¬ SwapsChangeEntry s used tr1 tr2 n →
        ∃ t, exec (.swap buff1 buff2 len) s = .next t ∧ OnlyMain s t ∧ SameMain (s.afterSwaps tr1 tr2 n) t) ∧
      (SwapsChangeEntry s used tr1 tr2 n → exec (.swap buff1 buff2 len) s = .refused .ownPageTableChanged)) ∧
    (∀ j k, j < n → k < n → (tr1 j).phys = (tr2 k).phys → exec (.swap buff1 buff2 len) s = .refused .overlappingBuffers)

/-- `fill`: the low byte of the third register in every byte of the buffer, nothing at all for length 0. First no byte of
the buffer is in a page table entry used: every byte reads so, the dirty bits of the pages are set, nothing else changes.
Then any buffer: the bytes in sequence, refused if a write changes a used entry (decisions D22, D23, D33; R240,
log 14). -/
def Obligations.FillBuffer : Prop :=
  ∀ (s : State) (buff len byte : RegNum) (n : Nat) (tr : Nat → Translation) (used : List Nat),
    n = (s.reg len).toNat → used = s.entriesUsed (fillAccesses (s.reg buff) n) →
    (∀ k, k < n → AllowedWrite s (s.reg buff + BitVec.ofNat 32 k) .byte (tr k)) →
    ((∀ k, k < n → ∀ p ∈ used, Apart (tr k).phys 1 p 2) →
      ∃ t, exec (.fill buff len byte) s = .next t ∧ OnlyMain s t ∧
        (∀ k, k < n → Memory.read t.main (tr k).phys = (s.reg byte).setWidth 8) ∧
        MainOutsideAll s t n 1 tr ∧ DirtyBitsSet t n tr) ∧
    (¬ WritesChangeEntry s used tr .byte (fun _ _ => s.reg byte) n →
      ∃ t, exec (.fill buff len byte) s = .next t ∧ OnlyMain s t ∧
        SameMain (s.afterWrites tr .byte (fun _ _ => s.reg byte) n) t ∧ (n = 0 → t = s)) ∧
    (WritesChangeEntry s used tr .byte (fun _ _ => s.reg byte) n →
      exec (.fill buff len byte) s = .refused .ownPageTableChanged)

/-- With the MMU off the accesses of a buffer or of a range that lies inside main memory are allowed at their own
addresses, and use no page table entry. -/
def Obligations.PlainAccessesAllowed : Prop :=
  ∀ (s : State) (a : Word) (n k : Nat), s.mmuOn = false → k < n →
    (a.toNat + n ≤ 2 ^ 24 →
      AllowedRead s (a + BitVec.ofNat 32 k) .byte (a.toNat + k) ∧
      AllowedWrite s (a + BitVec.ofNat 32 k) .byte { phys := a.toNat + k, dirty := none } ∧
      s.entriesOf (a + BitVec.ofNat 32 k) .byte = []) ∧
    (a.toNat % 4 = 0 → a.toNat + 4 * n ≤ 2 ^ 24 →
      AllowedRead s (a + BitVec.ofNat 32 (4 * k)) .word (a.toNat + 4 * k) ∧
      AllowedWrite s (a + BitVec.ofNat 32 (4 * k)) .word { phys := a.toNat + 4 * k, dirty := none } ∧
      s.entriesOf (a + BitVec.ofNat 32 (4 * k)) .word = [])

/-- Whatever the MMU and whatever overlaps, an M instruction with memory accesses that answers a next state either has
changed only what it may (main memory alone for `copy`, `swap`, `fill`, `save` and `through`; their destination
registers alone for `restore`, `from` and the pops; main memory and the pointer for the pushes) or is the trap entry of
a fault with no effect but that (decisions D22, D33). -/
def Obligations.BulkInstructionsFrame : Prop :=
  ∀ (s t : State) (a b c : RegNum) (i : Instr), exec i s = .next t →
    (i ∈ [.copy a b c, .swap a b c, .fill a b c, .save a b c, .through a b] →
      OnlyMain s t ∨ ∃ e, t = s.trapEntry .fault (Exc.vector e) (s.pc - 4)) ∧
    (i = .restore a b c →
      (RegisterFrame s t ((List.range (b.toNat + 1 - a.toNat)).map (fun k => a + BitVec.ofNat 5 k)) ∧ t.pc = s.pc) ∨
        ∃ e, t = s.trapEntry .fault (Exc.vector e) (s.pc - 4)) ∧
    (i = .fromPtr a b →
      (RegisterFrame s t [a] ∧ t.pc = s.pc) ∨ ∃ e, t = s.trapEntry .fault (Exc.vector e) (s.pc - 4)) ∧
    (i ∈ [.popb a b, .poph a b, .pop a b] →
      (RegisterFrame s t [a, b] ∧ t.pc = s.pc) ∨ ∃ e, t = s.trapEntry .fault (Exc.vector e) (s.pc - 4)) ∧
    (i ∈ [.pushb a b, .pushh a b, .push a b] →
      (SameControl s t ∧ SameData s t ∧ SameRegsBut s t [b] ∧ t.pc = s.pc) ∨
        ∃ e, t = s.trapEntry .fault (Exc.vector e) (s.pc - 4))

/-- `from` loads, and `through` stores, the word that the word at `x[rs1]` points to; the store is refused if it changes
a page table entry the instruction uses (decision D21; R240, log 14). -/
def Obligations.ThroughAndFrom : Prop :=
  ∀ (s : State) (rd rs1 : RegNum) (tr1 tr2 : Translation) (p : Word),
    s.locate (s.reg rs1) .read .word = .ok tr1 → p = Memory.load s.main tr1.phys .word →
    (s.locate p .read .word = .ok tr2 →
      WritesReg (.fromPtr rd rs1) s rd (Memory.load s.main tr2.phys .word)) ∧
    (s.locate p .write .word = .ok tr2 →
      (¬ ChangesUsedEntry s (s.entriesOf (s.reg rs1) .word ++ s.entriesOf p .word) tr2 .word (s.reg rd) →
        StoresMain (.through rd rs1) s tr2 .word (s.reg rd)) ∧
      (ChangesUsedEntry s (s.entriesOf (s.reg rs1) .word ++ s.entriesOf p .word) tr2 .word (s.reg rd) →
        exec (.through rd rs1) s = .refused .ownPageTableChanged))

/-- `exch` (R255). -/
def Obligations.ExchangeRegisters : Prop :=
  EncodedBy 0xFE007FFF 0x3A000000 (fun w => .exch (fieldA w) (fieldB w)) ∧
  decode 0x3A320000 = .ok (.exch 3 4) ∧
  ∀ (s : State) (rs1 rs2 : RegNum),
    ∃ t, exec (.exch rs1 rs2) s = .next t ∧ RegisterFrame s t [rs1, rs2] ∧ t.pc = s.pc ∧
      t.reg rs1 = (if rs1 = 0 then 0 else s.reg rs2) ∧ t.reg rs2 = (if rs2 = 0 then 0 else s.reg rs1) ∧
      (rs1 = rs2 → t = s)

/-! T instructions. -/

/-- `gsreg` reads all of `psr` in either mode; `ssreg` in supervisor mode replaces all of it, the register read in the
old mode (decision D29). -/
def Obligations.StatusRegister : Prop :=
  ∀ (s : State) (r : RegNum), WritesReg (.gsreg r) s r s.psr ∧
    (s.supervisor = true → exec (.ssreg r) s = .next { s with psr := s.reg r })

/-- `syscall` is a trap with the vector of its field, or of the register it names by the low byte; it saves the
address of the next instruction and is masked by nothing (decisions D13, D28, D30). -/
def Obligations.SystemCall : Prop :=
  ∀ (s : State) (rd : RegNum) (vector v : BitVec 8), v = (if rd = 0 then vector else (s.reg rd).setWidth 8) →
    exec (.syscall rd vector) s = .next (s.trapEntry .trap v s.pc) ∧
    (s.mmuOn = false → s.ssp.toNat % 4 = 0 → 8 ≤ s.ssp.toNat → s.ssp.toNat ≤ 2 ^ 24 →
      ∃ t, exec (.syscall rd vector) s = .next t ∧ t.halted = s.halted ∧ t.supervisor = true ∧
        t.pc = s.vectorEntry v ∧ t.ssp = s.ssp - 8 ∧ t.inFault = s.inFault ∧ t.priority = s.priority ∧
        Memory.load t.main (s.ssp.toNat - 4) .word = s.psr ∧ Memory.load t.main (s.ssp.toNat - 8) .word = s.pc)

/-- `sysret` in supervisor mode pops `pc`, then `psr`, from the supervisor stack and ends the fault's processing; a
fault of either read is taken, nothing else changed (decision D14). -/
def Obligations.SystemReturn : Prop :=
  ∀ s : State, s.supervisor = true →
    (∀ tr1 tr2 : Translation, s.locate s.ssp .read .word = .ok tr1 → s.locate (s.ssp + 4) .read .word = .ok tr2 →
      exec .sysret s = .next { s with
        pc := Memory.load s.main tr1.phys .word
        psr := Memory.load s.main tr2.phys .word
        ssp := s.ssp + 8
        inFault := false }) ∧
    (∀ e, s.locate s.ssp .read .word = .error (.raise e) → TakesFault .sysret s e) ∧
    (∀ tr1 e, s.locate s.ssp .read .word = .ok tr1 → s.locate (s.ssp + 4) .read .word = .error (.raise e) →
      TakesFault .sysret s e)

end
end

