-- ==== Sys2Proof/Laws/Memory.lean ====
section
/-! SUPPORT. What a read gives after a write, and that every memory operation keeps the canonical form. -/

namespace Sys2Proof.Machine

theorem Memory.read_insert (m : Memory) (a : Nat) (b : Byte) (h : ∀ c ∈ m, c.1 ≠ a) (x : Nat) :
    Memory.read (Memory.insert m a b) x = if x = a then b else Memory.read m x := by
  induction m with
  | nil => simp [Memory.insert, Memory.read, eq_comm]
  | cons c m ih =>
    obtain ⟨k, v⟩ := c
    have hk : k ≠ a := h (k, v) (by simp)
    unfold Memory.insert
    split
    · simp [Memory.read, eq_comm]
    · rw [Memory.read, ih (fun c hc => h c (by simp [hc]))]
      by_cases hx : x = a
      · subst hx; simp [hk]
      · simp [Memory.read, hx]

theorem Memory.read_filter (m : Memory) (a x : Nat) :
    Memory.read (m.filter (fun c => c.1 ≠ a)) x = if x = a then Memory.blank else Memory.read m x := by
  induction m with
  | nil => simp [Memory.read]
  | cons c m ih =>
    obtain ⟨k, v⟩ := c
    by_cases hk : k = a
    · subst hk
      simp only [ne_eq, not_true_eq_false, decide_false, Bool.false_eq_true, not_false_eq_true,
        List.filter_cons_of_neg]
      rw [ih]
      by_cases hx : x = k
      · simp [hx]
      · simp [hx, Memory.read, Ne.symm hx]
    · simp only [ne_eq, hk, not_false_eq_true, decide_true, List.filter_cons_of_pos]
      rw [Memory.read, ih, Memory.read]
      by_cases hx : x = a
      · subst hx; simp [hk]
      · simp [hx]

/-- A read gives the byte written at its address and what it gave before at every other. -/
@[simp] theorem Memory.read_write (m : Memory) (a : Nat) (b : Byte) (x : Nat) :
    Memory.read (Memory.write m a b) x = if x = a then b else Memory.read m x := by
  unfold Memory.write
  split
  · rename_i h; rw [Memory.read_filter, h]
  · rw [Memory.read_insert _ _ _ (by intro c hc; simpa using (List.mem_filter.1 hc).2), Memory.read_filter]
    split <;> simp_all

theorem Memory.mem_insert {m : Memory} {a : Nat} {b : Byte} {c : Host.Cell} (h : c ∈ Memory.insert m a b) :
    c = (a, b) ∨ c ∈ m := by
  induction m with
  | nil => simpa [Memory.insert] using h
  | cons d m ih =>
    unfold Memory.insert at h
    split at h
    · simpa using h
    · rcases List.mem_cons.1 h with h | h
      · simp [h]
      · rcases ih h with h | h <;> simp [h]

theorem Memory.pairwise_insert {m : Memory} {a : Nat} {b : Byte} (h : ∀ c ∈ m, c.1 ≠ a)
    (hp : m.Pairwise (fun c d => c.1 < d.1)) : (Memory.insert m a b).Pairwise (fun c d => c.1 < d.1) := by
  induction m with
  | nil => simp [Memory.insert]
  | cons c m ih =>
    have hc := List.pairwise_cons.1 hp
    unfold Memory.insert
    split
    · rename_i hlt
      refine List.pairwise_cons.2 ⟨fun d hd => ?_, hp⟩
      rcases List.mem_cons.1 hd with rfl | hd
      · exact hlt
      · exact Nat.lt_trans hlt (hc.1 d hd)
    · rename_i hlt
      refine List.pairwise_cons.2 ⟨fun d hd => ?_, ih (fun d hd => h d (by simp [hd])) hc.2⟩
      rcases Memory.mem_insert hd with rfl | hd
      · have := h c (by simp)
        simp only [Nat.not_lt] at hlt ⊢
        exact Nat.lt_of_le_of_ne hlt this
      · exact hc.1 d hd

theorem Memory.wf_iff {size : Nat} {m : Memory} : Memory.wf size m = true ↔
    (∀ c ∈ m, c.1 < size ∧ c.2 ≠ Memory.blank) ∧ m.Pairwise (fun c d => c.1 < d.1) := by
  simp [Memory.wf]

/-- A write inside the memory keeps the canonical form. -/
theorem Memory.write_wf {size : Nat} {m : Memory} (h : Memory.wf size m = true) {a : Nat} (ha : a < size)
    (b : Byte) : Memory.wf size (Memory.write m a b) = true := by
  obtain ⟨h1, h2⟩ := Memory.wf_iff.1 h
  have hf1 : ∀ c ∈ m.filter (fun c => c.1 ≠ a), c.1 < size ∧ c.2 ≠ Memory.blank :=
    fun c hc => h1 c (List.mem_of_mem_filter hc)
  have hf2 := h2.filter (fun c => c.1 ≠ a)
  unfold Memory.write
  split
  · exact Memory.wf_iff.2 ⟨hf1, hf2⟩
  · rename_i hb
    refine Memory.wf_iff.2 ⟨fun c hc => ?_, Memory.pairwise_insert ?_ hf2⟩
    · rcases Memory.mem_insert hc with rfl | hc
      · exact ⟨ha, hb⟩
      · exact hf1 c hc
    · intro c hc; simpa using (List.mem_filter.1 hc).2

/-- A store inside the memory keeps the canonical form. -/
theorem Memory.store_wf {n : Nat} {m : Memory} (h : Memory.wf n m = true) {a : Nat} {size : Size}
    (ha : a + size.bytes ≤ n) (v : Word) : Memory.wf n (Memory.store m a size v) = true := by
  cases size <;> simp only [Size.bytes] at ha <;> unfold Memory.store
  · exact Memory.write_wf h (by omega) _
  · exact Memory.write_wf (Memory.write_wf h (by omega) _) (by omega) _
  · exact Memory.write_wf (Memory.write_wf (Memory.write_wf (Memory.write_wf h (by omega) _) (by omega) _)
      (by omega) _) (by omega) _

/-- The byte at an address after a store: byte `x - a` of the stored ones, the most significant first, and the
old byte outside them. -/
theorem Memory.read_store (m : Memory) (a : Nat) (size : Size) (v : Word) (x : Nat) :
    Memory.read (Memory.store m a size v) x =
      if a ≤ x ∧ x < a + size.bytes then v.extractLsb' (8 * (a + size.bytes - 1 - x)) 8 else Memory.read m x := by
  have e1 : Size.byte.bytes = 1 := rfl
  have e2 : Size.half.bytes = 2 := rfl
  have e4 : Size.word.bytes = 4 := rfl
  cases size <;> simp only [Memory.store, Memory.read_write]
  · by_cases h : x = a
    · subst h; simp [e1]
    · rw [if_neg h, if_neg (by omega)]
  · by_cases h1 : x = a + 1
    · subst h1; simp [e2]
    · by_cases h : x = a
      · subst h; simp [e2]
      · rw [if_neg h1, if_neg h, if_neg (by omega)]
  · by_cases h3 : x = a + 3
    · subst h3; simp [e4]
    · by_cases h2 : x = a + 2
      · subst h2; simp [e4]
      · by_cases h1 : x = a + 1
        · subst h1; simp [e4]
        · by_cases h : x = a
          · subst h; simp [e4]
          · rw [if_neg h3, if_neg h2, if_neg h1, if_neg h, if_neg (by omega)]

/-- A store leaves every byte outside it. -/
theorem Memory.read_store_outside {m : Memory} {a : Nat} {size : Size} {v : Word} {x : Nat}
    (h : Outside x a size.bytes) : Memory.read (Memory.store m a size v) x = Memory.read m x := by
  rw [Memory.read_store, if_neg]; unfold Outside at h; omega

/-- A load depends on the bytes it reads alone. -/
theorem Memory.load_congr {m m' : Memory} {a : Nat} {size : Size}
    (h : ∀ x, a ≤ x → x < a + size.bytes → Memory.read m' x = Memory.read m x) :
    Memory.load m' a size = Memory.load m a size := by
  cases size <;> simp only [Size.bytes] at h <;> simp only [Memory.load]
  · rw [h a (by omega) (by omega)]
  · rw [h a (by omega) (by omega), h (a + 1) (by omega) (by omega)]
  · rw [h a (by omega) (by omega), h (a + 1) (by omega) (by omega), h (a + 2) (by omega) (by omega),
      h (a + 3) (by omega) (by omega)]

/-- A load outside a store gives what it gave before. -/
theorem Memory.load_store_outside {m : Memory} {a b : Nat} {size size' : Size} {v : Word}
    (h : b + size'.bytes ≤ a ∨ a + size.bytes ≤ b) :
    Memory.load (Memory.store m a size v) b size' = Memory.load m b size' :=
  Memory.load_congr fun x h1 h2 => Memory.read_store_outside (by unfold Outside; omega)

end Sys2Proof.Machine
end

