-- ==== Sys2Proof/Laws/State.lean ====
section
/-! SUPPORT. What each update of the state leaves: one lemma per field per update, so that no proof unfolds a
record update. -/

namespace Sys2Proof.Machine

@[simp] theorem State.writePsr_regs (s : State) (v : Word) : (s.writePsr v).regs = s.regs := rfl
@[simp] theorem State.writePsr_usp (s : State) (v : Word) : (s.writePsr v).usp = s.usp := rfl
@[simp] theorem State.writePsr_ssp (s : State) (v : Word) : (s.writePsr v).ssp = s.ssp := rfl
@[simp] theorem State.writePsr_pc (s : State) (v : Word) : (s.writePsr v).pc = s.pc := rfl
@[simp] theorem State.writePsr_inFault (s : State) (v : Word) : (s.writePsr v).inFault = s.inFault := rfl
@[simp] theorem State.writePsr_halted (s : State) (v : Word) : (s.writePsr v).halted = s.halted := rfl
@[simp] theorem State.writePsr_pending (s : State) (v : Word) : (s.writePsr v).pending = s.pending := rfl
@[simp] theorem State.writePsr_main (s : State) (v : Word) : (s.writePsr v).main = s.main := rfl
@[simp] theorem State.writePsr_data (s : State) (v : Word) : (s.writePsr v).data = s.data := rfl
@[simp] theorem State.writePsr_schedule (s : State) (v : Word) : (s.writePsr v).schedule = s.schedule := rfl
@[simp] theorem State.writePsr_deviceRegion (s : State) (v : Word) : (s.writePsr v).deviceRegion = s.deviceRegion := rfl
@[simp] theorem State.writePsr_draws (s : State) (v : Word) : (s.writePsr v).draws = s.draws := rfl

@[simp] theorem State.advance_regs (s : State) : (s.advance).regs = s.regs := rfl
@[simp] theorem State.advance_usp (s : State) : (s.advance).usp = s.usp := rfl
@[simp] theorem State.advance_ssp (s : State) : (s.advance).ssp = s.ssp := rfl
@[simp] theorem State.advance_psr (s : State) : (s.advance).psr = s.psr := rfl
@[simp] theorem State.advance_inFault (s : State) : (s.advance).inFault = s.inFault := rfl
@[simp] theorem State.advance_halted (s : State) : (s.advance).halted = s.halted := rfl
@[simp] theorem State.advance_pending (s : State) : (s.advance).pending = s.pending := rfl
@[simp] theorem State.advance_main (s : State) : (s.advance).main = s.main := rfl
@[simp] theorem State.advance_data (s : State) : (s.advance).data = s.data := rfl
@[simp] theorem State.advance_schedule (s : State) : (s.advance).schedule = s.schedule := rfl
@[simp] theorem State.advance_deviceRegion (s : State) : (s.advance).deviceRegion = s.deviceRegion := rfl
@[simp] theorem State.advance_draws (s : State) : (s.advance).draws = s.draws := rfl

@[simp] theorem State.doubleFault_regs (s : State) : (s.doubleFault).regs = s.regs := rfl
@[simp] theorem State.doubleFault_usp (s : State) : (s.doubleFault).usp = s.usp := rfl
@[simp] theorem State.doubleFault_ssp (s : State) : (s.doubleFault).ssp = s.ssp := rfl
@[simp] theorem State.doubleFault_pc (s : State) : (s.doubleFault).pc = s.pc := rfl
@[simp] theorem State.doubleFault_psr (s : State) : (s.doubleFault).psr = s.psr := rfl
@[simp] theorem State.doubleFault_inFault (s : State) : (s.doubleFault).inFault = s.inFault := rfl
@[simp] theorem State.doubleFault_pending (s : State) : (s.doubleFault).pending = s.pending := rfl
@[simp] theorem State.doubleFault_main (s : State) : (s.doubleFault).main = s.main := rfl
@[simp] theorem State.doubleFault_data (s : State) : (s.doubleFault).data = s.data := rfl
@[simp] theorem State.doubleFault_schedule (s : State) : (s.doubleFault).schedule = s.schedule := rfl
@[simp] theorem State.doubleFault_deviceRegion (s : State) : (s.doubleFault).deviceRegion = s.deviceRegion := rfl
@[simp] theorem State.doubleFault_draws (s : State) : (s.doubleFault).draws = s.draws := rfl

@[simp] theorem State.physWrite_regs (s : State) (pa : Nat) (size : Size) (v : Word) : (s.physWrite pa size v).regs = s.regs := rfl
@[simp] theorem State.physWrite_usp (s : State) (pa : Nat) (size : Size) (v : Word) : (s.physWrite pa size v).usp = s.usp := rfl
@[simp] theorem State.physWrite_ssp (s : State) (pa : Nat) (size : Size) (v : Word) : (s.physWrite pa size v).ssp = s.ssp := rfl
@[simp] theorem State.physWrite_pc (s : State) (pa : Nat) (size : Size) (v : Word) : (s.physWrite pa size v).pc = s.pc := rfl
@[simp] theorem State.physWrite_psr (s : State) (pa : Nat) (size : Size) (v : Word) : (s.physWrite pa size v).psr = s.psr := rfl
@[simp] theorem State.physWrite_inFault (s : State) (pa : Nat) (size : Size) (v : Word) : (s.physWrite pa size v).inFault = s.inFault := rfl
@[simp] theorem State.physWrite_halted (s : State) (pa : Nat) (size : Size) (v : Word) : (s.physWrite pa size v).halted = s.halted := rfl
@[simp] theorem State.physWrite_pending (s : State) (pa : Nat) (size : Size) (v : Word) : (s.physWrite pa size v).pending = s.pending := rfl
@[simp] theorem State.physWrite_data (s : State) (pa : Nat) (size : Size) (v : Word) : (s.physWrite pa size v).data = s.data := rfl
@[simp] theorem State.physWrite_schedule (s : State) (pa : Nat) (size : Size) (v : Word) : (s.physWrite pa size v).schedule = s.schedule := rfl
@[simp] theorem State.physWrite_deviceRegion (s : State) (pa : Nat) (size : Size) (v : Word) : (s.physWrite pa size v).deviceRegion = s.deviceRegion := rfl
@[simp] theorem State.physWrite_draws (s : State) (pa : Nat) (size : Size) (v : Word) : (s.physWrite pa size v).draws = s.draws := rfl

@[simp] theorem State.writePsr_psr (s : State) (v : Word) : (s.writePsr v).psr = v := rfl
@[simp] theorem State.advance_pc (s : State) : s.advance.pc = s.pc + 4 := rfl
@[simp] theorem State.doubleFault_halted (s : State) : s.doubleFault.halted = true := rfl
@[simp] theorem State.physWrite_main (s : State) (pa : Nat) (size : Size) (v : Word) :
    (s.physWrite pa size v).main = Memory.store s.main pa size v := rfl

@[simp] theorem State.setReg_pc (s : State) (i : RegNum) (v : Word) : (s.setReg i v).pc = s.pc := by
  unfold State.setReg; split_ifs <;> rfl
@[simp] theorem State.setReg_psr (s : State) (i : RegNum) (v : Word) : (s.setReg i v).psr = s.psr := by
  unfold State.setReg; split_ifs <;> rfl
@[simp] theorem State.setReg_inFault (s : State) (i : RegNum) (v : Word) : (s.setReg i v).inFault = s.inFault := by
  unfold State.setReg; split_ifs <;> rfl
@[simp] theorem State.setReg_halted (s : State) (i : RegNum) (v : Word) : (s.setReg i v).halted = s.halted := by
  unfold State.setReg; split_ifs <;> rfl
@[simp] theorem State.setReg_pending (s : State) (i : RegNum) (v : Word) : (s.setReg i v).pending = s.pending := by
  unfold State.setReg; split_ifs <;> rfl
@[simp] theorem State.setReg_main (s : State) (i : RegNum) (v : Word) : (s.setReg i v).main = s.main := by
  unfold State.setReg; split_ifs <;> rfl
@[simp] theorem State.setReg_data (s : State) (i : RegNum) (v : Word) : (s.setReg i v).data = s.data := by
  unfold State.setReg; split_ifs <;> rfl
@[simp] theorem State.setReg_schedule (s : State) (i : RegNum) (v : Word) : (s.setReg i v).schedule = s.schedule := by
  unfold State.setReg; split_ifs <;> rfl
@[simp] theorem State.setReg_deviceRegion (s : State) (i : RegNum) (v : Word) : (s.setReg i v).deviceRegion = s.deviceRegion := by
  unfold State.setReg; split_ifs <;> rfl
@[simp] theorem State.setReg_draws (s : State) (i : RegNum) (v : Word) : (s.setReg i v).draws = s.draws := by
  unfold State.setReg; split_ifs <;> rfl

@[simp] theorem State.setDirty_regs (s : State) (t : Translation) : (s.setDirty t).regs = s.regs := by
  unfold State.setDirty; split <;> rfl
@[simp] theorem State.setDirty_usp (s : State) (t : Translation) : (s.setDirty t).usp = s.usp := by
  unfold State.setDirty; split <;> rfl
@[simp] theorem State.setDirty_ssp (s : State) (t : Translation) : (s.setDirty t).ssp = s.ssp := by
  unfold State.setDirty; split <;> rfl
@[simp] theorem State.setDirty_pc (s : State) (t : Translation) : (s.setDirty t).pc = s.pc := by
  unfold State.setDirty; split <;> rfl
@[simp] theorem State.setDirty_psr (s : State) (t : Translation) : (s.setDirty t).psr = s.psr := by
  unfold State.setDirty; split <;> rfl
@[simp] theorem State.setDirty_inFault (s : State) (t : Translation) : (s.setDirty t).inFault = s.inFault := by
  unfold State.setDirty; split <;> rfl
@[simp] theorem State.setDirty_halted (s : State) (t : Translation) : (s.setDirty t).halted = s.halted := by
  unfold State.setDirty; split <;> rfl
@[simp] theorem State.setDirty_pending (s : State) (t : Translation) : (s.setDirty t).pending = s.pending := by
  unfold State.setDirty; split <;> rfl
@[simp] theorem State.setDirty_data (s : State) (t : Translation) : (s.setDirty t).data = s.data := by
  unfold State.setDirty; split <;> rfl
@[simp] theorem State.setDirty_schedule (s : State) (t : Translation) : (s.setDirty t).schedule = s.schedule := by
  unfold State.setDirty; split <;> rfl
@[simp] theorem State.setDirty_deviceRegion (s : State) (t : Translation) : (s.setDirty t).deviceRegion = s.deviceRegion := by
  unfold State.setDirty; split <;> rfl
@[simp] theorem State.setDirty_draws (s : State) (t : Translation) : (s.setDirty t).draws = s.draws := by
  unfold State.setDirty; split <;> rfl

end Sys2Proof.Machine

namespace Sys2Proof

/-! The parameters at their values. -/

@[simp] theorem Config.alignCheck_eq : Config.alignCheck = true := rfl
@[simp] theorem Config.shSwPrivileged_eq : Config.shSwPrivileged = false := rfl
@[simp] theorem Config.psrResStored_eq : Config.psrResStored = true := rfl
@[simp] theorem Config.shiftMask5_eq : Config.shiftMask5 = true := rfl
@[simp] theorem Config.divOverflow_eq : Config.divOverflow = .wrap := rfl
@[simp] theorem Config.syscallRegWide_eq : Config.syscallRegWide = .ignoreHighBits := rfl
@[simp] theorem Config.mbzPolicy_eq : Config.mbzPolicy = .refuse := rfl
@[simp] theorem Config.mainSpace_eq : Config.mainSpace = 16777216 := rfl
@[simp] theorem Config.memSize_eq : Config.memSize = 16777216 := rfl
@[simp] theorem Config.dataSize_eq : Config.dataSize = 65536 := rfl
@[simp] theorem Config.pcBase_eq : Config.pcBase = 4 := rfl

end Sys2Proof
end

