-- ==== Sys2Proof/Laws/Ops.lean ====
section
/-! SUPPORT. One lemma per shared operation that says what it can do. -/

namespace Sys2Proof.Machine

/-! The status word. -/

@[simp] theorem psrSupervisor_getLsbD (p : Word) (i : Nat) :
    (psrSupervisor p).getLsbD i = (if i = 31 then true else p.getLsbD i) := by
  unfold psrSupervisor
  simp only [BitVec.getLsbD_append, BitVec.getLsbD_extractLsb']
  by_cases h : i < 31
  · have : i ≠ 31 := by omega
    simp [h, this]
  · by_cases h' : i = 31
    · subst h'; simp
    · have : 31 < i := by omega
      simp only [h, if_neg h', decide_false, Bool.false_and, if_false]
      rw [BitVec.getLsbD_of_ge _ _ (by omega), BitVec.getLsbD_of_ge _ _ (by omega)]

/-- A supervisor status word is left as it is. -/
theorem psrSupervisor_of_set {p : Word} (h : p.getLsbD 31 = true) : psrSupervisor p = p := by
  apply BitVec.eq_of_getLsbD_eq
  intro i _
  rw [psrSupervisor_getLsbD]
  split
  · simp_all
  · rfl

/-! Registers. -/

theorem regSlot_inj {i j : RegNum} (hi : i ≠ 0#5) (hi' : i ≠ 2#5) (hj : j ≠ 0#5) (hj' : j ≠ 2#5)
    (h : (regSlot i).val = (regSlot j).val) : i = j := by
  revert hi hi' hj hj' h; revert i j; decide

@[simp] theorem State.reg_zero (s : State) : s.reg 0#5 = 0#32 := by simp [State.reg]

theorem State.reg_two (s : State) : s.reg 2#5 = if s.supervisor then s.ssp else s.usp := by simp [State.reg]

theorem State.reg_other (s : State) {i : RegNum} (h0 : i ≠ 0#5) (h2 : i ≠ 2#5) :
    s.reg i = s.regs[(regSlot i).val] := by
  unfold State.reg
  rw [if_neg h0, if_neg h2]
  rfl

@[simp] theorem State.setReg_zero (s : State) (v : Word) : s.setReg 0#5 v = s := by simp [State.setReg]

theorem State.setReg_two (s : State) (v : Word) :
    s.setReg 2#5 v = if s.supervisor then { s with ssp := v } else { s with usp := v } := by simp [State.setReg]

theorem State.setReg_other (s : State) {i : RegNum} (h0 : i ≠ 0#5) (h2 : i ≠ 2#5) (v : Word) :
    s.setReg i v = { s with regs := s.regs.set (regSlot i).val v } := by
  unfold State.setReg
  rw [if_neg h0, if_neg h2]

@[simp] theorem State.supervisor_setReg (s : State) (i : RegNum) (v : Word) :
    (s.setReg i v).supervisor = s.supervisor := by simp [State.supervisor]

/-- A register reads what was written to it last, the others as before; `r0` reads zero. -/
theorem State.reg_setReg (s : State) (i j : RegNum) (v : Word) :
    (s.setReg i v).reg j = if j = i ∧ j ≠ 0#5 then v else s.reg j := by
  by_cases hj0 : j = 0#5
  · subst hj0; simp
  by_cases hi0 : i = 0#5
  · subst hi0
    rw [State.setReg_zero, if_neg (fun h => hj0 h.1)]
  have hc : (j = i ∧ j ≠ 0#5) = (j = i) := propext ⟨And.left, fun h => ⟨h, hj0⟩⟩
  simp only [hc]
  by_cases hj2 : j = 2#5
  · subst hj2
    rw [State.reg_two, State.supervisor_setReg, State.reg_two]
    by_cases hi2 : i = 2#5
    · subst hi2
      rw [State.setReg_two, if_pos rfl]
      cases s.supervisor <;> rfl
    · rw [State.setReg_other s hi0 hi2, if_neg (Ne.symm hi2)]
  · rw [State.reg_other _ hj0 hj2, State.reg_other _ hj0 hj2]
    by_cases hi2 : i = 2#5
    · subst hi2
      rw [if_neg hj2]
      have : (s.setReg 2#5 v).regs = s.regs := by rw [State.setReg_two]; cases s.supervisor <;> rfl
      simp only [this]
    · have : (s.setReg i v).regs = s.regs.set (regSlot i).val v := by rw [State.setReg_other s hi0 hi2]
      simp only [this]
      by_cases hji : j = i
      · subst hji; simp
      · have hne : (regSlot i).val ≠ (regSlot j).val := fun h => hji (regSlot_inj hi0 hi2 hj0 hj2 h).symm
        rw [if_neg hji, Vector.getElem_set_ne _ _ hne]

/-- A register write leaves the stack pointer of the other mode. -/
theorem State.setReg_otherBank (s : State) (i : RegNum) (v : Word) :
    if s.supervisor then (s.setReg i v).usp = s.usp else (s.setReg i v).ssp = s.ssp := by
  unfold State.setReg
  cases h : s.supervisor <;> simp <;> split_ifs <;> rfl

/-! Accesses of main memory. -/

/-- What `Translate` found when it gives an address: a present entry inside memory whose frame is inside memory,
and a dirty bit to set only for a write. -/
theorem State.translate_ok {s : State} {va : Word} {kind : AccessKind} {size : Size} {t : Translation}
    (h : s.translate va kind size = .ok t) :
    s.pteAddr va + 2 ≤ Config.memSize ∧
      (Memory.load s.main (s.pteAddr va) .half).getLsbD 0 = true ∧
      t.phys = framed (Memory.load s.main (s.pteAddr va) .half) va ∧
      t.phys + size.bytes ≤ Config.memSize ∧
      t.dirty = (if kind = .write ∧ (Memory.load s.main (s.pteAddr va) .half).getLsbD 1 = false then
        some (s.pteAddr va, Memory.load s.main (s.pteAddr va) .half ||| 2) else none) := by
  unfold State.translate State.physRead at h
  split at h
  · cases h
  · rename_i pte hp
    split at hp
    · rename_i hb
      cases hp
      split at h; · cases h
      split at h; · cases h
      split at h; · cases h
      split at h; · cases h
      rename_i h1 _ _ h4
      cases h
      exact ⟨hb, by simpa using h1, rfl, by simpa using h4, rfl⟩
    · cases hp

/-- A located access is inside main memory, and so is the page table entry whose dirty bit it sets; only a write
sets one. -/
theorem State.locate_bound {s : State} {va : Word} {kind : AccessKind} {size : Size} {t : Translation}
    (h : s.locate va kind size = .ok t) :
    t.phys + size.bytes ≤ Config.memSize ∧
      ∀ a v, t.dirty = some (a, v) → kind = .write ∧ a + Size.half.bytes ≤ Config.memSize := by
  unfold State.locate at h
  split at h; · cases h
  split at h; · cases h
  split at h
  · obtain ⟨h1, -, -, h4, h5⟩ := State.translate_ok h
    refine ⟨h4, fun a v hd => ?_⟩
    rw [h5] at hd
    split at hd
    · rename_i hk
      cases hd
      exact ⟨hk.1, h1⟩
    · cases hd
  · split at h
    · cases h
    · cases h
      exact ⟨by simp only; omega, fun a v hd => by cases hd⟩

/-- A read and a fetch set no dirty bit. -/
theorem State.locate_dirty_none {s : State} {va : Word} {kind : AccessKind} {size : Size} {t : Translation}
    (hk : kind ≠ .write) (h : s.locate va kind size = .ok t) : t.dirty = none := by
  rcases hd : t.dirty with _ | ⟨a, v⟩
  · rfl
  · exact absurd ((State.locate_bound h).2 a v hd).1 hk

/-- With `ALIGN_CHECK` every read is one piece. -/
theorem State.memRead_eq (s : State) (va : Word) (size : Size) : s.memRead va size = s.readPiece va size := by
  simp [State.memRead, inOnePiece]

/-- A read gives the bytes at the located address. -/
theorem State.memRead_ok {s : State} {va : Word} {size : Size} {v : Word} :
    s.memRead va size = .ok v ↔ ∃ t, s.locate va .read size = .ok t ∧ v = Memory.load s.main t.phys size := by
  rw [State.memRead_eq]
  unfold State.readPiece
  cases s.locate va .read size <;> simp [eq_comm]

/-- A write that must not change watched entries: what it leaves if it is made. -/
theorem State.memWriteWatching_ok {s t : State} {watched : List Nat} {va : Word} {size : Size} {v : Word}
    (h : s.memWriteWatching watched va size v = .ok t) :
    ∃ tr, s.locate va .write size = .ok tr ∧ t = (s.setDirty tr).physWrite tr.phys size v := by
  simp only [State.memWriteWatching, inOnePiece, Config.alignCheck_eq, Bool.true_or, if_true,
    State.writePiece] at h
  cases hl : s.locate va .write size with
  | error e => rw [hl] at h; cases h
  | ok tr =>
    rw [hl] at h
    simp only at h
    split at h
    · cases h
    · exact ⟨tr, rfl, by cases h; rfl⟩

/-- A plain write watches nothing: it is made whenever its checks pass. -/
theorem State.memWrite_eq (s : State) (va : Word) (size : Size) (v : Word) :
    s.memWrite va size v =
      match s.locate va .write size with
      | .error e => .error e
      | .ok t => .ok ((s.setDirty t).physWrite t.phys size v) := by
  unfold State.memWrite State.memWriteWatching
  simp only [inOnePiece, Config.alignCheck_eq, Bool.true_or, if_true, State.writePiece]
  cases s.locate va .write size <;> simp [State.changesEntry]

/-- With the MMU off a write that watches nothing is a plain write. -/
theorem State.memWriteWatching_nil (s : State) (va : Word) (size : Size) (v : Word) :
    s.memWriteWatching [] va size v = s.memWrite va size v := rfl

theorem State.checkRead_ok {s : State} {va : Word} {size : Size} :
    s.checkRead va size = .ok () ↔ ∃ t, s.locate va .read size = .ok t := by
  unfold State.checkRead
  rw [State.memRead_eq]
  unfold State.readPiece
  cases s.locate va .read size <;> simp

theorem State.checkWrite_ok {s : State} {va : Word} {size : Size} :
    s.checkWrite va size = .ok () ↔ ∃ t, s.locate va .write size = .ok t := by
  unfold State.checkWrite
  rw [State.memWrite_eq]
  cases s.locate va .write size <;> simp

/-- A fetch gives the word at the located address. -/
theorem State.fetch_ok {s : State} {w : Word} :
    s.fetch = .ok w ↔ ∃ t, s.locate s.pc .fetch .word = .ok t ∧ w = Memory.load s.main t.phys .word := by
  unfold State.fetch
  cases s.locate s.pc .fetch .word <;> simp [eq_comm]

/-- A located write leaves main memory canonical. -/
theorem State.located_write_wf {s : State} (hm : Memory.wf Config.memSize s.main = true) {va : Word}
    {kind : AccessKind} {size : Size} {t : Translation} (h : s.locate va kind size = .ok t) (v : Word) :
    Memory.wf Config.memSize ((s.setDirty t).physWrite t.phys size v).main = true := by
  obtain ⟨hb, hd⟩ := State.locate_bound h
  refine Memory.store_wf ?_ hb v
  unfold State.setDirty
  split
  · exact hm
  · rename_i a pte hs
    exact Memory.store_wf hm (hd a pte hs).2 pte

/-- A write of main memory leaves it canonical. -/
theorem State.memWriteWatching_wf {s t : State} (hm : Memory.wf Config.memSize s.main = true)
    {watched : List Nat} {va : Word} {size : Size} {v : Word}
    (h : s.memWriteWatching watched va size v = .ok t) : Memory.wf Config.memSize t.main = true := by
  obtain ⟨tr, hl, rfl⟩ := State.memWriteWatching_ok h
  exact State.located_write_wf hm hl v

/-- A write of main memory changes main memory only. -/
theorem State.memWriteWatching_frame {s t : State} {watched : List Nat} {va : Word} {size : Size} {v : Word}
    (h : s.memWriteWatching watched va size v = .ok t) : t = { s with main := t.main } := by
  obtain ⟨tr, -, rfl⟩ := State.memWriteWatching_ok h
  unfold State.setDirty
  split <;> rfl

/-- A plain write leaves main memory canonical. -/
theorem State.memWrite_wf {s t : State} (hm : Memory.wf Config.memSize s.main = true) {va : Word} {size : Size}
    {v : Word} (h : s.memWrite va size v = .ok t) : Memory.wf Config.memSize t.main = true :=
  State.memWriteWatching_wf (watched := []) hm h

/-- A plain write changes main memory only. -/
theorem State.memWrite_frame {s t : State} {va : Word} {size : Size} {v : Word}
    (h : s.memWrite va size v = .ok t) : t = { s with main := t.main } :=
  State.memWriteWatching_frame (watched := []) h

/-! Accesses of data memory. -/

theorem dataStop_none {va : Word} {size : Size} (h : dataStop va size = none) :
    aligned va size = true ∧ va.toNat + size.bytes ≤ Config.dataSize := by
  unfold dataStop at h
  split at h; · cases h
  split at h; · cases h
  simp_all

theorem State.dataRead_ok {s : State} {va : Word} {size : Size} {v : Word} :
    s.dataRead va size = .ok v ↔ dataStop va size = none ∧ v = Memory.load s.data va.toNat size := by
  unfold State.dataRead
  cases dataStop va size <;> simp [eq_comm]

theorem State.dataWrite_ok {s t : State} {va : Word} {size : Size} {v : Word} :
    s.dataWrite va size v = .ok t ↔
      dataStop va size = none ∧ t = { s with data := Memory.store s.data va.toNat size v } := by
  unfold State.dataWrite
  cases dataStop va size <;> simp [eq_comm]

/-- A write of data memory leaves it canonical. -/
theorem State.dataWrite_wf {s t : State} (hd : Memory.wf Config.dataSize s.data = true) {va : Word} {size : Size}
    {v : Word} (h : s.dataWrite va size v = .ok t) : Memory.wf Config.dataSize t.data = true := by
  obtain ⟨hs, rfl⟩ := State.dataWrite_ok.1 h
  exact Memory.store_wf hd (dataStop_none hs).2 v

/-! Control of an operation. -/

theorem except_bind_ok {α β : Type} {x : Except Stop α} {f : α → Except Stop β} {b : β}
    (h : x >>= f = .ok b) : ∃ a, x = .ok a ∧ f a = .ok b := by
  cases x with
  | error e => cases h
  | ok a => exact ⟨a, rfl, h⟩

/-- What every pass of a loop keeps, the loop keeps. -/
theorem forUp_keeps {α : Type} (P : α → Prop) {f : Nat → α → Except Stop α}
    (hf : ∀ k x y, P x → f k x = .ok y → P y) :
    ∀ (n k : Nat) (x y : α), P x → forUp f n k x = .ok y → P y := by
  intro n
  induction n with
  | zero => intro k x y hx h; cases h; exact hx
  | succ n ih =>
    intro k x y hx h
    unfold forUp at h
    split at h
    · cases h
    · rename_i z hz
      exact ih _ _ _ (hf _ _ _ hx hz) h

theorem anyBelow_eq_false {p : Nat → Bool} {n : Nat} : anyBelow p n = false ↔ ∀ k, k < n → p k = false := by
  induction n with
  | zero => simp [anyBelow]
  | succ n ih =>
    rw [anyBelow, Bool.or_eq_false_iff, ih]
    constructor
    · rintro ⟨h1, h2⟩ k hk
      by_cases h : k = n
      · subst h; exact h1
      · exact h2 k (by omega)
    · intro h
      exact ⟨h n (by omega), fun k hk => h k (by omega)⟩

theorem State.privileged_ok {s t : State} {r : Except Stop State} :
    s.privileged r = .ok t ↔ s.supervisor = true ∧ r = .ok t := by
  unfold State.privileged
  cases s.supervisor <;> simp

/-- An operation that ends in a next state completed, or raised a fault that was taken. -/
theorem State.settle_next {s t : State} {savePc : Word} {r : Except Stop State} :
    s.settle savePc r = .next t ↔
      r = .ok t ∨ ∃ e, r = .error (.raise e) ∧ t = s.trapEntry .fault e.vector savePc := by
  rcases r with (e | r) | u <;> simp [State.settle, eq_comm]

theorem State.finish_next {s t : State} {r : Except Stop State} :
    s.finish r = .next t ↔
      r = .ok t ∨ ∃ e, r = .error (.raise e) ∧ t = s.trapEntry .fault e.vector s.instrAddr :=
  State.settle_next

/-! Trap entry and return. -/

/-- The two pushes change main memory and set supervisor mode. -/
theorem State.pushFrame_ok {s f : State} {savePc : Word} (h : s.pushFrame savePc = .ok f) :
    ∃ s1, ({ s with psr := psrSupervisor s.psr } : State).memWrite (s.ssp - 4) .word s.psr = .ok s1 ∧
      s1.memWrite (s.ssp - 8) .word savePc = .ok f := by
  unfold State.pushFrame at h
  obtain ⟨-, -, h⟩ := except_bind_ok h
  obtain ⟨-, -, h⟩ := except_bind_ok h
  exact except_bind_ok h

theorem State.pushFrame_frame {s f : State} {savePc : Word} (h : s.pushFrame savePc = .ok f) :
    f = { s with psr := psrSupervisor s.psr, main := f.main } := by
  obtain ⟨s1, h1, h2⟩ := State.pushFrame_ok h
  have e1 := State.memWrite_frame h1
  have e2 := State.memWrite_frame h2
  rw [e1] at e2
  exact e2

/-- A trap entry halts the machine, or it is made. -/
theorem State.trapEntry_cases (s : State) (k : TrapKind) (v : BitVec 8) (savePc : Word) :
    s.trapEntry k v savePc = s.doubleFault ∨
      ∃ f, ¬ (k = .fault ∧ s.inFault = true) ∧ s.pushFrame savePc = .ok f ∧
        s.trapEntry k v savePc =
          { s with
            main := f.main
            inFault := s.inFault || decide (k = .fault)
            ssp := s.ssp - 8
            psr := k.enterPsr s.psr
            pc := s.vectorEntry v } := by
  unfold State.trapEntry
  split
  · exact .inl rfl
  · rename_i hk
    split
    · exact .inl rfl
    · rename_i f hf
      refine .inr ⟨f, hk, hf, ?_⟩
      have := State.pushFrame_frame hf
      rw [this]

/-- A trap entry leaves main memory canonical. -/
theorem State.trapEntry_wf {s : State} (hm : Memory.wf Config.memSize s.main = true) (k : TrapKind)
    (v : BitVec 8) (savePc : Word) : Memory.wf Config.memSize (s.trapEntry k v savePc).main = true := by
  rcases s.trapEntry_cases k v savePc with h | ⟨f, -, hf, h⟩ <;> rw [h]
  · exact hm
  · obtain ⟨s1, h1, h2⟩ := State.pushFrame_ok hf
    exact State.memWrite_wf (t := f) (State.memWrite_wf (s := { s with psr := psrSupervisor s.psr }) hm h1) h2

/-- A trap entry touches no data memory, no pending request and no general register but the supervisor stack
pointer. -/
theorem State.trapEntry_frame (s : State) (k : TrapKind) (v : BitVec 8) (savePc : Word) :
    (s.trapEntry k v savePc).data = s.data ∧ (s.trapEntry k v savePc).pending = s.pending ∧
      (s.trapEntry k v savePc).regs = s.regs ∧ (s.trapEntry k v savePc).usp = s.usp ∧
      (s.trapEntry k v savePc).schedule = s.schedule ∧ (s.trapEntry k v savePc).draws = s.draws := by
  rcases s.trapEntry_cases k v savePc with h | ⟨f, -, -, h⟩ <;> rw [h] <;> simp

/-- What a return pops. -/
theorem State.trapReturn_ok {s t : State} (h : s.trapReturn = .ok t) :
    ∃ newPc newPsr, s.memRead s.ssp .word = .ok newPc ∧ s.memRead (s.ssp + 4) .word = .ok newPsr ∧
      t = { s with ssp := s.ssp + 8, pc := newPc, inFault := false, psr := newPsr } := by
  unfold State.trapReturn at h
  obtain ⟨newPc, h1, h⟩ := except_bind_ok h
  obtain ⟨newPsr, h2, h⟩ := except_bind_ok h
  exact ⟨newPc, newPsr, h1, h2, by cases h; rfl⟩

/-! Interrupts and the device agent. -/

/-- An acknowledgement takes a pending request that the masks let through. -/
theorem State.acknowledge_some {s t : State} (h : s.acknowledge = some t) :
    s.irqEnabled = true ∧ ∃ r, s.chosenRequest = some r ∧
      t = ({ s with pending := s.pending.filter (fun q => q ≠ r), draws := s.draws + 1 } : State).trapEntry
        (.interrupt r.priority) r.vector s.pc := by
  unfold State.acknowledge at h
  split at h
  · rename_i hi
    split at h
    · cases h
    · rename_i r hr
      exact ⟨hi, r, hr, by simpa using h.symm⟩
  · cases h

theorem mem_insertRequest {r q : Request} {l : List Request} (h : q ∈ insertRequest r l) : q = r ∨ q ∈ l := by
  induction l with
  | nil => simpa [insertRequest] using h
  | cons p l ih =>
    unfold insertRequest at h
    split at h
    · simpa using h
    · rcases List.mem_cons.1 h with h | h
      · simp [h]
      · rcases ih h with h | h <;> simp [h]

theorem Request.rank_inj {r q : Request} (h : r.rank = q.rank) : r = q := by
  obtain ⟨p1, v1⟩ := r
  obtain ⟨p2, v2⟩ := q
  have hv1 := v1.isLt
  have hv2 := v2.isLt
  simp only [Request.rank] at h
  have hp : p1.toNat = p2.toNat := by omega
  have hv : v1.toNat = v2.toNat := by omega
  rw [BitVec.eq_of_toNat_eq hp, BitVec.eq_of_toNat_eq hv]

/-- Adding a request keeps the canonical form of the pending ones. -/
theorem addRequest_wf (r : Request) {l : List Request} (h : pendingWf l = true) :
    pendingWf (addRequest r l) = true := by
  have hp : (l.filter (fun q => q ≠ r)).Pairwise (fun a b => a.rank < b.rank) :=
    (of_decide_eq_true h).filter _
  have hn : ∀ q ∈ l.filter (fun q => q ≠ r), q ≠ r := by intro q hq; simpa using (List.mem_filter.1 hq).2
  unfold addRequest pendingWf
  apply decide_eq_true
  generalize l.filter (fun q => q ≠ r) = m at hp hn
  induction m with
  | nil => simp [insertRequest]
  | cons p m ih =>
    have hc := List.pairwise_cons.1 hp
    unfold insertRequest
    split
    · rename_i hlt
      refine List.pairwise_cons.2 ⟨fun q hq => ?_, hp⟩
      rcases List.mem_cons.1 hq with rfl | hq
      · exact hlt
      · exact Nat.lt_trans hlt (hc.1 q hq)
    · rename_i hlt
      refine List.pairwise_cons.2 ⟨fun q hq => ?_, ih hc.2 (fun q hq => hn q (by simp [hq]))⟩
      rcases mem_insertRequest hq with rfl | hq
      · have : p.rank ≠ q.rank := fun e => hn p (by simp) (Request.rank_inj e)
        omega
      · exact hc.1 q hq

/-- Dropping requests keeps the canonical form. -/
theorem pendingWf_filter {l : List Request} (h : pendingWf l = true) (p : Request → Bool) :
    pendingWf (l.filter p) = true :=
  decide_eq_true ((of_decide_eq_true h).filter p)

theorem State.wf_iff {s : State} : s.wf = true ↔
    Memory.wf Config.memSize s.main = true ∧ Memory.wf Config.dataSize s.data = true ∧
      pendingWf s.pending = true := by
  simp [State.wf, and_assoc]

/-- A move of the device agent keeps the invariant. -/
theorem State.deviceMove_wf {s : State} (h : s.wf = true) (m : DeviceMove) : (s.deviceMove m).wf = true := by
  obtain ⟨h1, h2, h3⟩ := State.wf_iff.1 h
  cases m with
  | request r => exact State.wf_iff.2 ⟨h1, h2, addRequest_wf r h3⟩
  | port a b =>
    unfold State.deviceMove
    dsimp only
    split
    · exact State.wf_iff.2 ⟨h1, Memory.write_wf h2 (by have := a.isLt; rw [Config.dataSize_eq]; omega) b, h3⟩
    · exact h

theorem State.deviceMoves_wf (moves : List DeviceMove) {s : State} (h : s.wf = true) :
    (moves.foldl State.deviceMove s).wf = true := by
  induction moves generalizing s with
  | nil => exact h
  | cons m ms ih => exact ih (State.deviceMove_wf h m)

/-- The device agent's turn keeps the invariant. -/
theorem State.deviceTurn_wf {s : State} (h : s.wf = true) : s.deviceTurn.wf = true := by
  unfold State.deviceTurn
  split
  · exact h
  · exact State.deviceMoves_wf _ (s := { s with schedule := _ }) h

/-- With nothing scheduled the device agent does nothing. -/
@[simp] theorem State.deviceTurn_nil {s : State} (h : s.schedule = []) : s.deviceTurn = s := by
  simp [State.deviceTurn, h]

end Sys2Proof.Machine
end

