-- ==== Sys2Proof/Laws/PerInstr.lean ====
section
/-! SUPPORT. Statements about every instruction as syntax, one lemma per constructor. -/

namespace Sys2Proof.Laws

/-- The selecting bits of an instruction stand in bits 31:25 of its word (spec/30_encoding.md R102). -/
def OpcodeField.Statement (i : Instr) : Prop := (encode i).extractLsb' 25 7 = i.selector

theorem select_formatI (sel : BitVec 7) (a : RegNum) (imm : BitVec 20) :
    (formatI sel a imm).extractLsb' 25 7 = sel := by
  apply BitVec.eq_of_getLsbD_eq
  intro i hi
  simp only [formatI, BitVec.getLsbD_extractLsb', BitVec.getLsbD_append, hi, decide_true, Bool.true_and]
  repeat rw [if_neg (by omega)]
  congr 1
  omega

theorem select_formatII (sel : BitVec 7) (a b : RegNum) (imm : BitVec 15) :
    (formatII sel a b imm).extractLsb' 25 7 = sel := by
  apply BitVec.eq_of_getLsbD_eq
  intro i hi
  simp only [formatII, BitVec.getLsbD_extractLsb', BitVec.getLsbD_append, hi, decide_true, Bool.true_and]
  repeat rw [if_neg (by omega)]
  congr 1
  omega

theorem select_formatIII (sel : BitVec 7) (a b c : RegNum) :
    (formatIII sel a b c).extractLsb' 25 7 = sel := by
  apply BitVec.eq_of_getLsbD_eq
  intro i hi
  simp only [formatIII, BitVec.getLsbD_extractLsb', BitVec.getLsbD_append, hi, decide_true, Bool.true_and]
  repeat rw [if_neg (by omega)]
  congr 1
  omega

theorem select_formatIV (sel : BitVec 7) (a b c d : RegNum) :
    (formatIV sel a b c d).extractLsb' 25 7 = sel := by
  apply BitVec.eq_of_getLsbD_eq
  intro i hi
  simp only [formatIV, BitVec.getLsbD_extractLsb', BitVec.getLsbD_append, hi, decide_true, Bool.true_and]
  repeat rw [if_neg (by omega)]
  congr 1
  omega

theorem select_formatV (sel : BitVec 7) (a : RegNum) (vector : BitVec 8) :
    (formatV sel a vector).extractLsb' 25 7 = sel := by
  apply BitVec.eq_of_getLsbD_eq
  intro i hi
  simp only [formatV, BitVec.getLsbD_extractLsb', BitVec.getLsbD_append, hi, decide_true, Bool.true_and]
  repeat rw [if_neg (by omega)]
  congr 1
  omega

theorem OpcodeField.syscall (rd : RegNum) (vector : BitVec 8) : OpcodeField.Statement (.syscall rd vector) := select_formatV _ _ _

theorem OpcodeField.gsreg (rd : RegNum) : OpcodeField.Statement (.gsreg rd) := select_formatV _ _ _

theorem OpcodeField.ssreg (rs1 : RegNum) : OpcodeField.Statement (.ssreg rs1) := select_formatV _ _ _

theorem OpcodeField.sysret : OpcodeField.Statement (.sysret) := select_formatV _ _ _

theorem OpcodeField.copy (src : RegNum) (dest : RegNum) (len : RegNum) : OpcodeField.Statement (.copy src dest len) := select_formatIII _ _ _ _

theorem OpcodeField.swap (buff1 : RegNum) (buff2 : RegNum) (len : RegNum) : OpcodeField.Statement (.swap buff1 buff2 len) := select_formatIII _ _ _ _

theorem OpcodeField.fill (buff : RegNum) (n : RegNum) (byte : RegNum) : OpcodeField.Statement (.fill buff n byte) := select_formatIII _ _ _ _

theorem OpcodeField.through (rd : RegNum) (rs1 : RegNum) : OpcodeField.Statement (.through rd rs1) := select_formatII _ _ _ _

theorem OpcodeField.fromPtr (rd : RegNum) (rs1 : RegNum) : OpcodeField.Statement (.fromPtr rd rs1) := select_formatII _ _ _ _

theorem OpcodeField.popb (rd : RegNum) (sp : RegNum) : OpcodeField.Statement (.popb rd sp) := select_formatII _ _ _ _

theorem OpcodeField.poph (rd : RegNum) (sp : RegNum) : OpcodeField.Statement (.poph rd sp) := select_formatII _ _ _ _

theorem OpcodeField.pop (rd : RegNum) (sp : RegNum) : OpcodeField.Statement (.pop rd sp) := select_formatII _ _ _ _

theorem OpcodeField.pushb (rd : RegNum) (sp : RegNum) : OpcodeField.Statement (.pushb rd sp) := select_formatII _ _ _ _

theorem OpcodeField.pushh (rd : RegNum) (sp : RegNum) : OpcodeField.Statement (.pushh rd sp) := select_formatII _ _ _ _

theorem OpcodeField.push (rd : RegNum) (sp : RegNum) : OpcodeField.Statement (.push rd sp) := select_formatII _ _ _ _

theorem OpcodeField.save (first : RegNum) (last : RegNum) (dest : RegNum) : OpcodeField.Statement (.save first last dest) := select_formatIII _ _ _ _

theorem OpcodeField.restore (first : RegNum) (last : RegNum) (src : RegNum) : OpcodeField.Statement (.restore first last src) := select_formatIII _ _ _ _

theorem OpcodeField.exch (rs1 : RegNum) (rs2 : RegNum) : OpcodeField.Statement (.exch rs1 rs2) := select_formatII _ _ _ _

theorem OpcodeField.jal (rd : RegNum) (off : Int) : OpcodeField.Statement (.jal rd off) := select_formatI _ _ _

theorem OpcodeField.lui (rd : RegNum) (imm : BitVec 20) : OpcodeField.Statement (.lui rd imm) := select_formatI _ _ _

theorem OpcodeField.auipc (rd : RegNum) (imm : BitVec 20) : OpcodeField.Statement (.auipc rd imm) := select_formatI _ _ _

theorem OpcodeField.beq (rs1 : RegNum) (rs2 : RegNum) (off : Int) : OpcodeField.Statement (.beq rs1 rs2 off) := select_formatII _ _ _ _

theorem OpcodeField.bne (rs1 : RegNum) (rs2 : RegNum) (off : Int) : OpcodeField.Statement (.bne rs1 rs2 off) := select_formatII _ _ _ _

theorem OpcodeField.blt (rs1 : RegNum) (rs2 : RegNum) (off : Int) : OpcodeField.Statement (.blt rs1 rs2 off) := select_formatII _ _ _ _

theorem OpcodeField.bge (rs1 : RegNum) (rs2 : RegNum) (off : Int) : OpcodeField.Statement (.bge rs1 rs2 off) := select_formatII _ _ _ _

theorem OpcodeField.bltu (rs1 : RegNum) (rs2 : RegNum) (off : Int) : OpcodeField.Statement (.bltu rs1 rs2 off) := select_formatII _ _ _ _

theorem OpcodeField.bgeu (rs1 : RegNum) (rs2 : RegNum) (off : Int) : OpcodeField.Statement (.bgeu rs1 rs2 off) := select_formatII _ _ _ _

theorem OpcodeField.jalr (rd : RegNum) (rs1 : RegNum) (off : Int) : OpcodeField.Statement (.jalr rd rs1 off) := select_formatII _ _ _ _

theorem OpcodeField.lb (rd : RegNum) (rs1 : RegNum) (off : Int) : OpcodeField.Statement (.lb rd rs1 off) := select_formatII _ _ _ _

theorem OpcodeField.lbu (rd : RegNum) (rs1 : RegNum) (off : Int) : OpcodeField.Statement (.lbu rd rs1 off) := select_formatII _ _ _ _

theorem OpcodeField.lbd (rd : RegNum) (rs1 : RegNum) (off : Int) : OpcodeField.Statement (.lbd rd rs1 off) := select_formatII _ _ _ _

theorem OpcodeField.lbud (rd : RegNum) (rs1 : RegNum) (off : Int) : OpcodeField.Statement (.lbud rd rs1 off) := select_formatII _ _ _ _

theorem OpcodeField.lh (rd : RegNum) (rs1 : RegNum) (off : Int) : OpcodeField.Statement (.lh rd rs1 off) := select_formatII _ _ _ _

theorem OpcodeField.lhu (rd : RegNum) (rs1 : RegNum) (off : Int) : OpcodeField.Statement (.lhu rd rs1 off) := select_formatII _ _ _ _

theorem OpcodeField.lhd (rd : RegNum) (rs1 : RegNum) (off : Int) : OpcodeField.Statement (.lhd rd rs1 off) := select_formatII _ _ _ _

theorem OpcodeField.lhud (rd : RegNum) (rs1 : RegNum) (off : Int) : OpcodeField.Statement (.lhud rd rs1 off) := select_formatII _ _ _ _

theorem OpcodeField.lw (rd : RegNum) (rs1 : RegNum) (off : Int) : OpcodeField.Statement (.lw rd rs1 off) := select_formatII _ _ _ _

theorem OpcodeField.lwd (rd : RegNum) (rs1 : RegNum) (off : Int) : OpcodeField.Statement (.lwd rd rs1 off) := select_formatII _ _ _ _

theorem OpcodeField.muli (rd : RegNum) (rs1 : RegNum) (imm : Int) : OpcodeField.Statement (.muli rd rs1 imm) := select_formatII _ _ _ _

theorem OpcodeField.mulih (rd : RegNum) (rs1 : RegNum) (imm : Int) : OpcodeField.Statement (.mulih rd rs1 imm) := select_formatII _ _ _ _

theorem OpcodeField.idivi (rd : RegNum) (rs1 : RegNum) (imm : Int) : OpcodeField.Statement (.idivi rd rs1 imm) := select_formatII _ _ _ _

theorem OpcodeField.addi (rd : RegNum) (rs1 : RegNum) (imm : Int) : OpcodeField.Statement (.addi rd rs1 imm) := select_formatII _ _ _ _

theorem OpcodeField.subi (rd : RegNum) (rs1 : RegNum) (imm : Int) : OpcodeField.Statement (.subi rd rs1 imm) := select_formatII _ _ _ _

theorem OpcodeField.ori (rd : RegNum) (rs1 : RegNum) (imm : Int) : OpcodeField.Statement (.ori rd rs1 imm) := select_formatII _ _ _ _

theorem OpcodeField.andi (rd : RegNum) (rs1 : RegNum) (imm : Int) : OpcodeField.Statement (.andi rd rs1 imm) := select_formatII _ _ _ _

theorem OpcodeField.xori (rd : RegNum) (rs1 : RegNum) (imm : Int) : OpcodeField.Statement (.xori rd rs1 imm) := select_formatII _ _ _ _

theorem OpcodeField.shira (rd : RegNum) (rs1 : RegNum) (imm : Int) : OpcodeField.Statement (.shira rd rs1 imm) := select_formatII _ _ _ _

theorem OpcodeField.shirl (rd : RegNum) (rs1 : RegNum) (imm : Int) : OpcodeField.Statement (.shirl rd rs1 imm) := select_formatII _ _ _ _

theorem OpcodeField.shill (rd : RegNum) (rs1 : RegNum) (imm : Int) : OpcodeField.Statement (.shill rd rs1 imm) := select_formatII _ _ _ _

theorem OpcodeField.add (rd : RegNum) (rs1 : RegNum) (rs2 : RegNum) : OpcodeField.Statement (.add rd rs1 rs2) := select_formatIII _ _ _ _

theorem OpcodeField.sub (rd : RegNum) (rs1 : RegNum) (rs2 : RegNum) : OpcodeField.Statement (.sub rd rs1 rs2) := select_formatIII _ _ _ _

theorem OpcodeField.idiv (rd : RegNum) (rd2 : RegNum) (rs1 : RegNum) (rs2 : RegNum) : OpcodeField.Statement (.idiv rd rd2 rs1 rs2) := select_formatIV _ _ _ _ _

theorem OpcodeField.mul (rd : RegNum) (rd2 : RegNum) (rs1 : RegNum) (rs2 : RegNum) : OpcodeField.Statement (.mul rd rd2 rs1 rs2) := select_formatIV _ _ _ _ _

theorem OpcodeField.or (rd : RegNum) (rs1 : RegNum) (rs2 : RegNum) : OpcodeField.Statement (.or rd rs1 rs2) := select_formatIII _ _ _ _

theorem OpcodeField.and (rd : RegNum) (rs1 : RegNum) (rs2 : RegNum) : OpcodeField.Statement (.and rd rs1 rs2) := select_formatIII _ _ _ _

theorem OpcodeField.xor (rd : RegNum) (rs1 : RegNum) (rs2 : RegNum) : OpcodeField.Statement (.xor rd rs1 rs2) := select_formatIII _ _ _ _

theorem OpcodeField.not (rd : RegNum) (rs1 : RegNum) : OpcodeField.Statement (.not rd rs1) := select_formatIII _ _ _ _

theorem OpcodeField.ctz (rd : RegNum) (rs1 : RegNum) : OpcodeField.Statement (.ctz rd rs1) := select_formatIII _ _ _ _

theorem OpcodeField.clz (rd : RegNum) (rs1 : RegNum) : OpcodeField.Statement (.clz rd rs1) := select_formatIII _ _ _ _

theorem OpcodeField.popcount (rd : RegNum) (rs1 : RegNum) : OpcodeField.Statement (.popcount rd rs1) := select_formatIII _ _ _ _

theorem OpcodeField.shra (rd : RegNum) (rs1 : RegNum) (rs2 : RegNum) : OpcodeField.Statement (.shra rd rs1 rs2) := select_formatIII _ _ _ _

theorem OpcodeField.shrl (rd : RegNum) (rs1 : RegNum) (rs2 : RegNum) : OpcodeField.Statement (.shrl rd rs1 rs2) := select_formatIII _ _ _ _

theorem OpcodeField.shll (rd : RegNum) (rs1 : RegNum) (rs2 : RegNum) : OpcodeField.Statement (.shll rd rs1 rs2) := select_formatIII _ _ _ _

theorem OpcodeField.ror (rd : RegNum) (rs1 : RegNum) (rs2 : RegNum) : OpcodeField.Statement (.ror rd rs1 rs2) := select_formatIII _ _ _ _

theorem OpcodeField.rol (rd : RegNum) (rs1 : RegNum) (rs2 : RegNum) : OpcodeField.Statement (.rol rd rs1 rs2) := select_formatIII _ _ _ _

theorem OpcodeField.sb (rs1 : RegNum) (rs2 : RegNum) (off : Int) : OpcodeField.Statement (.sb rs1 rs2 off) := select_formatII _ _ _ _

theorem OpcodeField.sbd (rs1 : RegNum) (rs2 : RegNum) (off : Int) : OpcodeField.Statement (.sbd rs1 rs2 off) := select_formatII _ _ _ _

theorem OpcodeField.sh (rs1 : RegNum) (rs2 : RegNum) (off : Int) : OpcodeField.Statement (.sh rs1 rs2 off) := select_formatII _ _ _ _

theorem OpcodeField.shd (rs1 : RegNum) (rs2 : RegNum) (off : Int) : OpcodeField.Statement (.shd rs1 rs2 off) := select_formatII _ _ _ _

theorem OpcodeField.sw (rs1 : RegNum) (rs2 : RegNum) (off : Int) : OpcodeField.Statement (.sw rs1 rs2 off) := select_formatII _ _ _ _

theorem OpcodeField.swd (rs1 : RegNum) (rs2 : RegNum) (off : Int) : OpcodeField.Statement (.swd rs1 rs2 off) := select_formatII _ _ _ _

end Sys2Proof.Laws
end

