-- ==== Sys2Proof/Tests/Slice0.lean ====
section
/-! SUPPORT. Tests, and the witnesses of the statements' hypotheses. Words and expected values are those of
spec/95_test_vectors.md section 2 (its table named in each heading). -/

namespace Sys2Proof.Tests

open Sys2Proof.Machine

/-! Well-formedness: an ill-formed term for each check, and the bounds themselves. -/

theorem test_wf_imm15_high : (Instr.addi 3 4 16384).wf = false := by decide
theorem test_wf_imm15_low : (Instr.lb 3 4 (-16385)).wf = false := by decide
theorem test_wf_imm15_bounds : (Instr.addi 3 4 16383).wf = true ∧ (Instr.sw 3 4 (-16384)).wf = true := by decide
theorem test_wf_jump15_high : (Instr.beq 3 4 65536).wf = false := by decide
theorem test_wf_jump15_low : (Instr.jalr 3 4 (-65540)).wf = false := by decide
theorem test_wf_jump15_alignment : (Instr.bgeu 3 4 6).wf = false := by decide
theorem test_wf_jump15_bounds : (Instr.bne 3 4 65532).wf = true ∧ (Instr.jalr 3 4 (-65536)).wf = true := by decide
theorem test_wf_jump20_high : (Instr.jal 1 2097152).wf = false := by decide
theorem test_wf_jump20_low : (Instr.jal 1 (-2097156)).wf = false := by decide
theorem test_wf_jump20_alignment : (Instr.jal 1 2).wf = false := by decide
theorem test_wf_jump20_bounds : (Instr.jal 1 2097148).wf = true ∧ (Instr.jal 1 (-2097152)).wf = true := by decide

/-! Decoding and encoding, one word for every instruction. -/

theorem test_decode_syscall_field : decode 0x04000020 = .ok (.syscall 0 0x20) ∧ encode (.syscall 0 0x20) = 0x04000020 := by decide
theorem test_decode_syscall_register : decode 0x04500077 = .ok (.syscall 5 0x77) ∧ encode (.syscall 5 0x77) = 0x04500077 := by decide
theorem test_decode_gsreg : decode 0x06300000 = .ok (.gsreg 3) ∧ encode (.gsreg 3) = 0x06300000 := by decide
theorem test_decode_ssreg : decode 0x08300000 = .ok (.ssreg 3) ∧ encode (.ssreg 3) = 0x08300000 := by decide
theorem test_decode_sysret : decode 0x0C000000 = .ok (.sysret) ∧ encode (.sysret) = 0x0C000000 := by decide
theorem test_decode_copy : decode 0x20321400 = .ok (.copy 3 4 5) ∧ encode (.copy 3 4 5) = 0x20321400 := by decide
theorem test_decode_swap : decode 0x22321400 = .ok (.swap 3 4 5) ∧ encode (.swap 3 4 5) = 0x22321400 := by decide
theorem test_decode_fill : decode 0x24321400 = .ok (.fill 3 4 5) ∧ encode (.fill 3 4 5) = 0x24321400 := by decide
theorem test_decode_through : decode 0x26320000 = .ok (.through 3 4) ∧ encode (.through 3 4) = 0x26320000 := by decide
theorem test_decode_from : decode 0x28320000 = .ok (.fromPtr 3 4) ∧ encode (.fromPtr 3 4) = 0x28320000 := by decide
theorem test_decode_popb : decode 0x2AC10000 = .ok (.popb 12 2) ∧ encode (.popb 12 2) = 0x2AC10000 := by decide
theorem test_decode_poph : decode 0x2C310000 = .ok (.poph 3 2) ∧ encode (.poph 3 2) = 0x2C310000 := by decide
theorem test_decode_pop : decode 0x2ED28000 = .ok (.pop 13 5) ∧ encode (.pop 13 5) = 0x2ED28000 := by decide
theorem test_decode_pushb : decode 0x30910000 = .ok (.pushb 9 2) ∧ encode (.pushb 9 2) = 0x30910000 := by decide
theorem test_decode_pushh : decode 0x32310000 = .ok (.pushh 3 2) ∧ encode (.pushh 3 2) = 0x32310000 := by decide
theorem test_decode_push : decode 0x34710000 = .ok (.push 7 2) ∧ encode (.push 7 2) = 0x34710000 := by decide
theorem test_decode_save : decode 0x36A58800 = .ok (.save 10 11 2) ∧ encode (.save 10 11 2) = 0x36A58800 := by decide
theorem test_decode_restore : decode 0x38329000 = .ok (.restore 3 5 4) ∧ encode (.restore 3 5 4) = 0x38329000 := by decide
theorem test_decode_exch : decode 0x3A320000 = .ok (.exch 3 4) ∧ encode (.exch 3 4) = 0x3A320000 := by decide
theorem test_decode_jal : decode 0x40180000 = .ok (.jal 1 (-0x200000)) ∧ encode (.jal 1 (-0x200000)) = 0x40180000 := by decide
theorem test_decode_jal_forward : decode 0x4017FFFF = .ok (.jal 1 0x1FFFFC) ∧ encode (.jal 1 0x1FFFFC) = 0x4017FFFF := by decide
theorem test_decode_lui : decode 0x423ABCDE = .ok (.lui 3 0xABCDE) ∧ encode (.lui 3 0xABCDE) = 0x423ABCDE := by decide
theorem test_decode_auipc : decode 0x444FFFFF = .ok (.auipc 4 0xFFFFF) ∧ encode (.auipc 4 0xFFFFF) = 0x444FFFFF := by decide
theorem test_decode_beq : decode 0x60110004 = .ok (.beq 1 2 16) ∧ encode (.beq 1 2 16) = 0x60110004 := by decide
theorem test_decode_bne : decode 0x62327FFF = .ok (.bne 3 4 (-4)) ∧ encode (.bne 3 4 (-4)) = 0x62327FFF := by decide
theorem test_decode_blt : decode 0x64530002 = .ok (.blt 5 6 8) ∧ encode (.blt 5 6 8) = 0x64530002 := by decide
theorem test_decode_bge : decode 0x66747FF0 = .ok (.bge 7 8 (-64)) ∧ encode (.bge 7 8 (-64)) = 0x66747FF0 := by decide
theorem test_decode_bltu : decode 0x68950001 = .ok (.bltu 9 10 4) ∧ encode (.bltu 9 10 4) = 0x68950001 := by decide
theorem test_decode_bgeu : decode 0x6AB64000 = .ok (.bgeu 11 12 (-0x10000)) ∧ encode (.bgeu 11 12 (-0x10000)) = 0x6AB64000 := by decide
theorem test_decode_bgeu_forward : decode 0x6AB63FFF = .ok (.bgeu 11 12 0xFFFC) ∧ encode (.bgeu 11 12 0xFFFC) = 0x6AB63FFF := by decide
theorem test_decode_jalr : decode 0x8200FFFF = .ok (.jalr 0 1 (-4)) ∧ encode (.jalr 0 1 (-4)) = 0x8200FFFF := by decide
theorem test_decode_lb : decode 0x84327FFF = .ok (.lb 3 4 (-1)) ∧ encode (.lb 3 4 (-1)) = 0x84327FFF := by decide
theorem test_decode_lbu : decode 0x86320005 = .ok (.lbu 3 4 5) ∧ encode (.lbu 3 4 5) = 0x86320005 := by decide
theorem test_decode_lbd : decode 0x88300006 = .ok (.lbd 3 0 6) ∧ encode (.lbd 3 0 6) = 0x88300006 := by decide
theorem test_decode_lbud : decode 0x8A300006 = .ok (.lbud 3 0 6) ∧ encode (.lbud 3 0 6) = 0x8A300006 := by decide
theorem test_decode_lh : decode 0x8C320002 = .ok (.lh 3 4 2) ∧ encode (.lh 3 4 2) = 0x8C320002 := by decide
theorem test_decode_lhu : decode 0x8E320002 = .ok (.lhu 3 4 2) ∧ encode (.lhu 3 4 2) = 0x8E320002 := by decide
theorem test_decode_lhd : decode 0x90300020 = .ok (.lhd 3 0 0x20) ∧ encode (.lhd 3 0 0x20) = 0x90300020 := by decide
theorem test_decode_lhud : decode 0x92300020 = .ok (.lhud 3 0 0x20) ∧ encode (.lhud 3 0 0x20) = 0x92300020 := by decide
theorem test_decode_lw : decode 0x94317FFC = .ok (.lw 3 2 (-4)) ∧ encode (.lw 3 2 (-4)) = 0x94317FFC := by decide
theorem test_decode_lwd : decode 0x96530400 = .ok (.lwd 5 6 0x400) ∧ encode (.lwd 5 6 0x400) = 0x96530400 := by decide
theorem test_decode_muli : decode 0xA0327FFD = .ok (.muli 3 4 (-3)) ∧ encode (.muli 3 4 (-3)) = 0xA0327FFD := by decide
theorem test_decode_mulih : decode 0xA2320008 = .ok (.mulih 3 4 8) ∧ encode (.mulih 3 4 8) = 0xA2320008 := by decide
theorem test_decode_idivi : decode 0xA4327FFE = .ok (.idivi 3 4 (-2)) ∧ encode (.idivi 3 4 (-2)) = 0xA4327FFE := by decide
theorem test_decode_addi : decode 0xA6304000 = .ok (.addi 3 0 (-16384)) ∧ encode (.addi 3 0 (-16384)) = 0xA6304000 := by decide
theorem test_decode_subi : decode 0xA8324000 = .ok (.subi 3 4 (-16384)) ∧ encode (.subi 3 4 (-16384)) = 0xA8324000 := by decide
theorem test_decode_ori : decode 0xAA3200FF = .ok (.ori 3 4 0xFF) ∧ encode (.ori 3 4 0xFF) = 0xAA3200FF := by decide
theorem test_decode_andi : decode 0xAC323FFF = .ok (.andi 3 4 0x3FFF) ∧ encode (.andi 3 4 0x3FFF) = 0xAC323FFF := by decide
theorem test_decode_xori : decode 0xAE327FFF = .ok (.xori 3 4 (-1)) ∧ encode (.xori 3 4 (-1)) = 0xAE327FFF := by decide
theorem test_decode_shira : decode 0xB0327FFF = .ok (.shira 3 4 (-1)) ∧ encode (.shira 3 4 (-1)) = 0xB0327FFF := by decide
theorem test_decode_shirl : decode 0xB2320021 = .ok (.shirl 3 4 33) ∧ encode (.shirl 3 4 33) = 0xB2320021 := by decide
theorem test_decode_shill : decode 0xB432001F = .ok (.shill 3 4 31) ∧ encode (.shill 3 4 31) = 0xB432001F := by decide
theorem test_decode_add : decode 0xC0321400 = .ok (.add 3 4 5) ∧ encode (.add 3 4 5) = 0xC0321400 := by decide
theorem test_decode_sub : decode 0xC2321000 = .ok (.sub 3 4 4) ∧ encode (.sub 3 4 4) = 0xC2321000 := by decide
theorem test_decode_idiv : decode 0xC43310A0 = .ok (.idiv 3 6 4 5) ∧ encode (.idiv 3 6 4 5) = 0xC43310A0 := by decide
theorem test_decode_mul : decode 0xC6E62960 = .ok (.mul 14 12 10 11) ∧ encode (.mul 14 12 10 11) = 0xC6E62960 := by decide
theorem test_decode_or : decode 0xC8321400 = .ok (.or 3 4 5) ∧ encode (.or 3 4 5) = 0xC8321400 := by decide
theorem test_decode_and : decode 0xCA321400 = .ok (.and 3 4 5) ∧ encode (.and 3 4 5) = 0xCA321400 := by decide
theorem test_decode_xor : decode 0xCC73A000 = .ok (.xor 7 7 8) ∧ encode (.xor 7 7 8) = 0xCC73A000 := by decide
theorem test_decode_not : decode 0xCE320000 = .ok (.not 3 4) ∧ encode (.not 3 4) = 0xCE320000 := by decide
theorem test_decode_ctz : decode 0xD0320000 = .ok (.ctz 3 4) ∧ encode (.ctz 3 4) = 0xD0320000 := by decide
theorem test_decode_clz : decode 0xD2320000 = .ok (.clz 3 4) ∧ encode (.clz 3 4) = 0xD2320000 := by decide
theorem test_decode_popcount : decode 0xD4320000 = .ok (.popcount 3 4) ∧ encode (.popcount 3 4) = 0xD4320000 := by decide
theorem test_decode_shra : decode 0xD6321400 = .ok (.shra 3 4 5) ∧ encode (.shra 3 4 5) = 0xD6321400 := by decide
theorem test_decode_shrl : decode 0xD8321400 = .ok (.shrl 3 4 5) ∧ encode (.shrl 3 4 5) = 0xD8321400 := by decide
theorem test_decode_shll : decode 0xDA321400 = .ok (.shll 3 4 5) ∧ encode (.shll 3 4 5) = 0xDA321400 := by decide
theorem test_decode_ror : decode 0xDC321400 = .ok (.ror 3 4 5) ∧ encode (.ror 3 4 5) = 0xDC321400 := by decide
theorem test_decode_rol : decode 0xDE321400 = .ok (.rol 3 4 5) ∧ encode (.rol 3 4 5) = 0xDE321400 := by decide
theorem test_decode_sb : decode 0xE0320001 = .ok (.sb 3 4 1) ∧ encode (.sb 3 4 1) = 0xE0320001 := by decide
theorem test_decode_sbd : decode 0xE2300000 = .ok (.sbd 3 0 0) ∧ encode (.sbd 3 0 0) = 0xE2300000 := by decide
theorem test_decode_sh : decode 0xE4320002 = .ok (.sh 3 4 2) ∧ encode (.sh 3 4 2) = 0xE4320002 := by decide
theorem test_decode_shd : decode 0xE630000A = .ok (.shd 3 0 10) ∧ encode (.shd 3 0 10) = 0xE630000A := by decide
theorem test_decode_sw : decode 0xE8327FF8 = .ok (.sw 3 4 (-8)) ∧ encode (.sw 3 4 (-8)) = 0xE8327FF8 := by decide
theorem test_decode_swd : decode 0xEA330080 = .ok (.swd 3 6 0x80) ∧ encode (.swd 3 6 0x80) = 0xEA330080 := by decide

/-! Words that are no instruction (2.9). -/

theorem test_decode_zero_word : decode 0x00000000 = .error .undefinedPair := by decide
theorem test_decode_ones_word : decode 0xFFFFFFFF = .error .undefinedPair := by decide
theorem test_decode_group4_opcode0 : decode 0x80000000 = .error .undefinedPair := by decide
theorem test_decode_mbz_add : decode 0xC0321401 = .error .nonZeroField := by decide
theorem test_decode_mbz_sysret : decode 0x0C100000 = .error .nonZeroField := by decide
theorem test_decode_mbz_syscall : decode 0x04000120 = .error .nonZeroField := by decide
theorem test_decode_bytes : decodeBytes [0x42, 0x3A, 0xBC, 0xDE, 0x06] = .ok (.lui 3 0xABCDE, [0x06]) := by decide
theorem test_decode_table_word : decodeTableWord 32 0x423ABCDE = some (.lui 3 0xABCDE) := by decide

/-! One step on a small state. The instruction stands at `0x400`, or where the row says. -/

/-- Bytes from an address up. -/
def bytesAt (a : Nat) : List Byte → Memory → Memory
  | [], m => m
  | b :: bs, m => bytesAt (a + 1) bs (Memory.write m a b)

/-- A supervisor state with these registers, at `ia`. -/
def startAt (ia : Word) (regs : List (RegNum × Word)) : State :=
  regs.foldl (fun s r => s.setReg r.1 r.2) { State.reset with pc := ia, ssp := 0x3000, usp := 0x5000 }

/-- The same in user mode with the default tables. -/
def user (ia : Word) (regs : List (RegNum × Word)) : State :=
  { startAt ia regs with psr := 0x03EFF000 }

/-- Put bytes into main memory. -/
def mem (s : State) (a : Nat) (bs : List Byte) : State := { s with main := bytesAt a bs s.main }

/-- Put bytes into data memory. -/
def dat (s : State) (a : Nat) (bs : List Byte) : State := { s with data := bytesAt a bs s.data }

/-- The state after one step that runs the word. -/
def after (s : State) (w : Nat) : State :=
  match step (s.withFetchWord 32 w) with
  | .next t => t
  | _ => s.doubleFault


/-! U and J (2.1) -/

theorem test_lui : (after (startAt 0x400 [(3, 0x123)]) 0x423FFFFF).reg 3 = 0xFFFFF000 ∧ (after (startAt 0x400 [(3, 0x123)]) 0x423FFFFF).pc = 0x404 := by decide
theorem test_auipc : (after (startAt 0x100 []) 0x44400001).reg 4 = 0x1104 := by decide
theorem test_auipc_wraps : (after (startAt 0x1000 []) 0x444FFFFF).reg 4 = 4 := by decide
theorem test_jal : (after (startAt 0x30C []) 0x40100002).reg 1 = 0x310 ∧ (after (startAt 0x30C []) 0x40100002).pc = 0x318 := by decide
theorem test_jal_back : (after (startAt 0x200000 []) 0x40180000).reg 1 = 0x200004 ∧ (after (startAt 0x200000 []) 0x40180000).pc = 4 := by decide

/-! B (2.2) -/

theorem test_beq : (after (startAt 0x20000 [(1, 5), (2, 5)]) 0x60110004).pc = 0x20014 := by decide
theorem test_beq_not : (after (startAt 0x20000 [(1, 5), (2, 6)]) 0x60110004).pc = 0x20004 := by decide
theorem test_bne : (after (startAt 0x20000 [(3, 1), (4, 2)]) 0x62327FFF).pc = 0x20000 := by decide
theorem test_bne_not : (after (startAt 0x20000 [(3, 2), (4, 2)]) 0x62327FFF).pc = 0x20004 := by decide
theorem test_blt : (after (startAt 0x20000 [(5, 0x80000000), (6, 0x7FFFFFFF)]) 0x64530002).pc = 0x2000C := by decide
theorem test_blt_not : (after (startAt 0x20000 [(5, 1), (6, 0xFFFFFFFF)]) 0x64530002).pc = 0x20004 := by decide
theorem test_bge : (after (startAt 0x20000 [(7, 0), (8, 0xFFFFFFFF)]) 0x66747FF0).pc = 0x1FFC4 := by decide
theorem test_bge_not : (after (startAt 0x20000 [(7, 0x80000000), (8, 0)]) 0x66747FF0).pc = 0x20004 := by decide
theorem test_bltu : (after (startAt 0x20000 [(9, 1), (10, 0xFFFFFFFF)]) 0x68950001).pc = 0x20008 := by decide
theorem test_bltu_not : (after (startAt 0x20000 [(9, 0xFFFFFFFF), (10, 1)]) 0x68950001).pc = 0x20004 := by decide
theorem test_bgeu : (after (startAt 0x20000 [(11, 5), (12, 5)]) 0x6AB63FFF).pc = 0x30000 := by decide
theorem test_bgeu_not : (after (startAt 0x20000 [(11, 4), (12, 5)]) 0x6AB63FFF).pc = 0x20004 := by decide

/-! `jalr` and loads (2.3) -/

theorem test_jalr_same_register : (after (startAt 0x400 [(5, 0x2000)]) 0x82528000).pc = 0x2000 ∧ (after (startAt 0x400 [(5, 0x2000)]) 0x82528000).reg 5 = 0x404 := by decide
theorem test_lb : (after (mem (startAt 0x400 [(4, 0x1001)]) 0x1000 [0xFE, 0x80, 0xFF, 0xFE, 0x12, 0x34, 0x56, 0x78]) 0x84327FFF).reg 3 = 0xFFFFFFFE := by decide
theorem test_lbu : (after (mem (startAt 0x400 [(4, 0x1000)]) 0x1000 [0xFE, 0x80, 0xFF, 0xFE, 0x12, 0x34, 0x56, 0x78]) 0x86320000).reg 3 = 0xFE := by decide
theorem test_lh : (after (mem (startAt 0x400 [(4, 0x1000)]) 0x1000 [0xFE, 0x80, 0xFF, 0xFE, 0x12, 0x34, 0x56, 0x78]) 0x8C320002).reg 3 = 0xFFFFFFFE := by decide
theorem test_lh_misaligned : (after (dat (mem (startAt 0x400 [(4, 0x1000), (3, 7)]) 0x1000 [0xFE, 0x80, 0xFF, 0xFE, 0x12, 0x34, 0x56, 0x78]) 0xF80C [0x00, 0x00, 0x09, 0x00]) 0x8C320001).reg 3 = 7 ∧ (after (dat (mem (startAt 0x400 [(4, 0x1000), (3, 7)]) 0x1000 [0xFE, 0x80, 0xFF, 0xFE, 0x12, 0x34, 0x56, 0x78]) 0xF80C [0x00, 0x00, 0x09, 0x00]) 0x8C320001).pc = 0x900 ∧ Memory.load (after (dat (mem (startAt 0x400 [(4, 0x1000), (3, 7)]) 0x1000 [0xFE, 0x80, 0xFF, 0xFE, 0x12, 0x34, 0x56, 0x78]) 0xF80C [0x00, 0x00, 0x09, 0x00]) 0x8C320001).main 0x2FF8 .word = 0x400 := by decide
theorem test_lhu : (after (mem (startAt 0x400 [(4, 0x1000)]) 0x1000 [0xFE, 0x80, 0xFF, 0xFE, 0x12, 0x34, 0x56, 0x78]) 0x8E320002).reg 3 = 0xFFFE := by decide
theorem test_lw : (after (mem (startAt 0x400 [(4, 0x1000)]) 0x1000 [0xFE, 0x80, 0xFF, 0xFE, 0x12, 0x34, 0x56, 0x78]) 0x94320004).reg 3 = 0x12345678 := by decide
theorem test_lw_stack : (after (mem (startAt 0x400 [(2, 0x1008)]) 0x1000 [0xFE, 0x80, 0xFF, 0xFE, 0x12, 0x34, 0x56, 0x78]) 0x94317FFC).reg 3 = 0x12345678 := by decide
theorem test_lbd : (after (dat (startAt 0x400 [(6, 0xF400)]) 6 [0x80]) 0x88300006).reg 3 = 0xFFFFFF80 := by decide
theorem test_lbud : (after (dat (startAt 0x400 [(6, 0xF400)]) 6 [0x80]) 0x8A300006).reg 3 = 0x80 := by decide
theorem test_lhd : (after (dat (startAt 0x400 []) 0x20 [0xFF, 0xFE]) 0x90300020).reg 3 = 0xFFFFFFFE := by decide
theorem test_lhud : (after (dat (startAt 0x400 []) 0x20 [0xFF, 0xFE]) 0x92300020).reg 3 = 0xFFFE := by decide
theorem test_lwd : (after (dat (startAt 0x400 [(6, 0xF400)]) 0xF800 [0x00, 0x00, 0x04, 0x00]) 0x96530400).reg 5 = 0x400 := by decide
theorem test_lwd_user : (after (dat (user 0x400 [(6, 0xF400), (5, 0x77)]) 0xF818 [0x00, 0x00, 0x09, 0x00]) 0x96530400).reg 5 = 0x77 ∧ (after (dat (user 0x400 [(6, 0xF400), (5, 0x77)]) 0xF818 [0x00, 0x00, 0x09, 0x00]) 0x96530400).pc = 0x900 ∧ (after (dat (user 0x400 [(6, 0xF400), (5, 0x77)]) 0xF818 [0x00, 0x00, 0x09, 0x00]) 0x96530400).psr = 0x83EFF000 := by decide

/-! Arithmetic with an immediate (2.4) -/

theorem test_muli : (after (startAt 0x400 [(4, 0x40001)]) 0xA0323FFF).reg 3 = 0xFFFC3FFF := by decide
theorem test_mulih : (after (startAt 0x400 [(4, 0x80000000)]) 0xA2327FFF).reg 3 = 0 := by decide
theorem test_mulih_signed : (after (startAt 0x400 [(4, 0xFFFFFFFF)]) 0xA2320002).reg 3 = 0xFFFFFFFF := by decide
theorem test_idivi : (after (startAt 0x400 [(4, 7)]) 0xA4327FFE).reg 3 = 0xFFFFFFFD := by decide
theorem test_addi : (after (startAt 0x400 [(4, 0xFFFFFFFF)]) 0xA6320001).reg 3 = 0 := by decide
theorem test_subi : (after (startAt 0x400 [(4, 0)]) 0xA8324000).reg 3 = 0x4000 := by decide
theorem test_ori : (after (startAt 0x400 [(4, 0)]) 0xAA327FFF).reg 3 = 0xFFFFFFFF := by decide
theorem test_andi : (after (startAt 0x400 [(4, 0x12345678)]) 0xAC327FF0).reg 3 = 0x12345670 := by decide
theorem test_xori : (after (startAt 0x400 [(4, 0xFFFF)]) 0xAE327FFF).reg 3 = 0xFFFF0000 := by decide
theorem test_shira : (after (startAt 0x400 [(4, 0x80000000)]) 0xB0320004).reg 3 = 0xF8000000 := by decide
theorem test_shira_negative : (after (startAt 0x400 [(4, 0x80000000)]) 0xB0327FFF).reg 3 = 0xFFFFFFFF := by decide
theorem test_shirl : (after (startAt 0x400 [(4, 0x80000000)]) 0xB2320021).reg 3 = 0x40000000 := by decide
theorem test_shill : (after (startAt 0x400 [(4, 0x12345678)]) 0xB4320004).reg 3 = 0x23456780 := by decide
theorem test_idivi_by_zero : (after (dat (startAt 0x400 [(4, 5), (3, 0x99)]) 0xF814 [0x00, 0x00, 0x09, 0x00]) 0xA4320000).reg 3 = 0x99 ∧ (after (dat (startAt 0x400 [(4, 5), (3, 0x99)]) 0xF814 [0x00, 0x00, 0x09, 0x00]) 0xA4320000).pc = 0x900 ∧ Memory.load (after (dat (startAt 0x400 [(4, 5), (3, 0x99)]) 0xF814 [0x00, 0x00, 0x09, 0x00]) 0xA4320000).main 0x2FF8 .word = 0x400 := by decide

/-! Stores (2.5) -/

theorem test_sb : Memory.load (after (startAt 0x400 [(3, 0x12345678), (4, 0x1000)]) 0xE0320001).main 0x1000 .word = 0x00780000 := by decide
theorem test_sh : Memory.load (after (startAt 0x400 [(3, 0x12345678), (4, 0x1000)]) 0xE4320002).main 0x1000 .word = 0x5678 := by decide
theorem test_sw : Memory.load (after (startAt 0x400 [(3, 1), (4, 0xFFFFFC)]) 0xE8320000).main 0xFFFFFC .word = 1 := by decide
theorem test_sw_beyond : (after (dat (startAt 0x400 [(3, 1), (4, 0xFFFFFC)]) 0xF808 [0x00, 0x00, 0x09, 0x00]) 0xE8320004).pc = 0x900 := by decide
theorem test_sbd : Memory.load (after (startAt 0x400 [(3, 0x141)]) 0xE2300000).data 0 .byte = 0x41 := by decide
theorem test_shd : Memory.load (after (startAt 0x400 [(3, 0x12345678)]) 0xE630000A).data 0xA .half = 0x5678 := by decide
theorem test_swd : Memory.load (after (startAt 0x400 [(3, 0x440), (6, 0xF800)]) 0xEA330080).data 0xF880 .word = 0x440 := by decide
theorem test_sbd_user : Memory.load (after (dat (user 0x400 [(3, 0x141)]) 0xF818 [0x00, 0x00, 0x09, 0x00]) 0xE2300000).data 0 .byte = 0 ∧ (after (dat (user 0x400 [(3, 0x141)]) 0xF818 [0x00, 0x00, 0x09, 0x00]) 0xE2300000).ssp = 0x2FF8 ∧ (after (dat (user 0x400 [(3, 0x141)]) 0xF818 [0x00, 0x00, 0x09, 0x00]) 0xE2300000).inFault = true ∧ Memory.load (after (dat (user 0x400 [(3, 0x141)]) 0xF818 [0x00, 0x00, 0x09, 0x00]) 0xE2300000).main 0x2FFC .word = 0x03EFF000 := by decide

/-! Register arithmetic (2.6) -/

theorem test_add : (after (startAt 0x400 [(4, 0xFFFFFFFF), (5, 1)]) 0xC0321400).reg 3 = 0 := by decide
theorem test_sub : (after (startAt 0x400 [(4, 0), (5, 1)]) 0xC2321400).reg 3 = 0xFFFFFFFF := by decide
theorem test_or : (after (startAt 0x400 [(4, 0xF0F00000), (5, 0x0FF000FF)]) 0xC8321400).reg 3 = 0xFFF000FF := by decide
theorem test_and : (after (startAt 0x400 [(4, 0xF0F00000), (5, 0x0FF000FF)]) 0xCA321400).reg 3 = 0x00F00000 := by decide
theorem test_xor : (after (startAt 0x400 [(4, 0xF0F00000), (5, 0x0FF000FF)]) 0xCC321400).reg 3 = 0xFF0000FF := by decide
theorem test_not : (after (startAt 0x400 [(4, 0xFFFF), (5, 0)]) 0xCE320000).reg 3 = 0xFFFF0000 := by decide
theorem test_ctz : (after (startAt 0x400 [(4, 8), (5, 0)]) 0xD0320000).reg 3 = 3 := by decide
theorem test_ctz_zero : (after (startAt 0x400 [(4, 0), (5, 0)]) 0xD0320000).reg 3 = 32 := by decide
theorem test_clz : (after (startAt 0x400 [(4, 0x10000), (5, 0)]) 0xD2320000).reg 3 = 15 := by decide
theorem test_clz_zero : (after (startAt 0x400 [(4, 0), (5, 0)]) 0xD2320000).reg 3 = 32 := by decide
theorem test_popcount : (after (startAt 0x400 [(4, 0xF0F0F0F0), (5, 0)]) 0xD4320000).reg 3 = 16 := by decide
theorem test_shra : (after (startAt 0x400 [(4, 0x80000000), (5, 4)]) 0xD6321400).reg 3 = 0xF8000000 := by decide
theorem test_shra_32 : (after (startAt 0x400 [(4, 0x80000000), (5, 32)]) 0xD6321400).reg 3 = 0x80000000 := by decide
theorem test_shrl : (after (startAt 0x400 [(4, 0x80000000), (5, 4)]) 0xD8321400).reg 3 = 0x08000000 := by decide
theorem test_shll : (after (startAt 0x400 [(4, 1), (5, 0x21)]) 0xDA321400).reg 3 = 2 := by decide
theorem test_ror : (after (startAt 0x400 [(4, 0x12345678), (5, 0x28)]) 0xDC321400).reg 3 = 0x78123456 := by decide
theorem test_rol : (after (startAt 0x400 [(4, 0x80000001), (5, 1)]) 0xDE321400).reg 3 = 3 := by decide
theorem test_idiv : (after (startAt 0x400 [(4, 0xFFFFFFEA), (5, 7)]) 0xC43310A0).reg 3 = 0xFFFFFFFD ∧ (after (startAt 0x400 [(4, 0xFFFFFFEA), (5, 7)]) 0xC43310A0).reg 6 = 0xFFFFFFFF := by decide
theorem test_idiv_overflow : (after (startAt 0x400 [(4, 0x80000000), (5, 0xFFFFFFFF)]) 0xC43310A0).reg 3 = 0x80000000 ∧ (after (startAt 0x400 [(4, 0x80000000), (5, 0xFFFFFFFF)]) 0xC43310A0).reg 6 = 0 := by decide
theorem test_mul : (after (startAt 0x400 [(4, 0x12345678), (5, 0x9ABCDEF0)]) 0xC63310A0).reg 3 = 0xF8CC93D6 ∧ (after (startAt 0x400 [(4, 0x12345678), (5, 0x9ABCDEF0)]) 0xC63310A0).reg 6 = 0x242D2080 := by decide
theorem test_mul_same_register : (after (startAt 0x400 [(4, 6), (5, 7)]) 0xC63190A0).reg 3 = 42 := by decide

/-! M instructions (2.7) -/

theorem test_copy : Memory.load (after (mem (startAt 0x400 [(3, 0x1000), (4, 0x2000), (5, 4)]) 0x1000 [0xDE, 0xAD, 0xBE, 0xEF]) 0x20321400).main 0x2000 .word = 0xDEADBEEF ∧ (after (mem (startAt 0x400 [(3, 0x1000), (4, 0x2000), (5, 4)]) 0x1000 [0xDE, 0xAD, 0xBE, 0xEF]) 0x20321400).reg 3 = 0x1000 := by decide
theorem test_swap : Memory.load (after (mem (mem (startAt 0x400 [(3, 0x1000), (4, 0x2000), (5, 2)]) 0x1000 [0x11, 0x22]) 0x2000 [0xAA, 0xBB]) 0x22321400).main 0x1000 .word = 0xAABB0000 ∧ Memory.load (after (mem (mem (startAt 0x400 [(3, 0x1000), (4, 0x2000), (5, 2)]) 0x1000 [0x11, 0x22]) 0x2000 [0xAA, 0xBB]) 0x22321400).main 0x2000 .word = 0x11220000 := by decide
theorem test_fill : Memory.load (after (mem (startAt 0x400 [(3, 0x3000), (4, 3), (5, 0x1234ABCD)]) 0x3003 [0x77]) 0x24321400).main 0x3000 .word = 0xCDCDCD77 := by decide
theorem test_through : Memory.load (after (mem (startAt 0x400 [(3, 0xCAFEF00D), (4, 0x1000)]) 0x1000 [0x00, 0x00, 0x20, 0x00]) 0x26320000).main 0x2000 .word = 0xCAFEF00D ∧ (after (mem (startAt 0x400 [(3, 0xCAFEF00D), (4, 0x1000)]) 0x1000 [0x00, 0x00, 0x20, 0x00]) 0x26320000).reg 3 = 0xCAFEF00D := by decide
theorem test_from : (after (mem (mem (startAt 0x400 [(4, 0x1000)]) 0x1000 [0x00, 0x00, 0x20, 0x00]) 0x2000 [0xCA, 0xFE, 0xF0, 0x0D]) 0x28320000).reg 3 = 0xCAFEF00D := by decide
theorem test_popb : (after (mem (startAt 0x400 [(2, 0x1FFB)]) 0x1FFB [0x34]) 0x2AC10000).reg 12 = 0x34 ∧ (after (mem (startAt 0x400 [(2, 0x1FFB)]) 0x1FFB [0x34]) 0x2AC10000).ssp = 0x1FFC := by decide
theorem test_poph : (after (mem (startAt 0x400 [(2, 0x1FFE)]) 0x1FFE [0xFF, 0xFE]) 0x2C310000).reg 3 = 0xFFFE ∧ (after (mem (startAt 0x400 [(2, 0x1FFE)]) 0x1FFE [0xFF, 0xFE]) 0x2C310000).ssp = 0x2000 := by decide
theorem test_pop : (after (mem (startAt 0x400 [(2, 0x1FFC)]) 0x1FFC [0x12, 0x34, 0x56, 0x78]) 0x2ED10000).reg 13 = 0x12345678 ∧ (after (mem (startAt 0x400 [(2, 0x1FFC)]) 0x1FFC [0x12, 0x34, 0x56, 0x78]) 0x2ED10000).ssp = 0x2000 := by decide
theorem test_pop_pointer : (after (mem (startAt 0x400 [(2, 0x1FFC)]) 0x1FFC [0x00, 0x00, 0x40, 0x00]) 0x2E210000).ssp = 0x4000 := by decide
theorem test_pushb : Memory.load (after (startAt 0x400 [(2, 0x1FFC), (9, 0x34)]) 0x30910000).main 0x1FFB .byte = 0x34 ∧ (after (startAt 0x400 [(2, 0x1FFC), (9, 0x34)]) 0x30910000).ssp = 0x1FFB := by decide
theorem test_pushh : Memory.load (after (startAt 0x400 [(2, 0x2000), (3, 0x1234ABCD)]) 0x32310000).main 0x1FFE .half = 0xABCD ∧ (after (startAt 0x400 [(2, 0x2000), (3, 0x1234ABCD)]) 0x32310000).ssp = 0x1FFE := by decide
theorem test_push_pointer : Memory.load (after (startAt 0x400 [(2, 0x2000)]) 0x34210000).main 0x1FFC .word = 0x2000 ∧ (after (startAt 0x400 [(2, 0x2000)]) 0x34210000).ssp = 0x1FFC := by decide
theorem test_save : Memory.load (after (startAt 0x400 [(2, 0x2FF8), (1, 0x11), (3, 0x33), (5, 0x6000)]) 0x36019400).main 0x6000 .word = 0 ∧ Memory.load (after (startAt 0x400 [(2, 0x2FF8), (1, 0x11), (3, 0x33), (5, 0x6000)]) 0x36019400).main 0x6004 .word = 0x11 ∧ Memory.load (after (startAt 0x400 [(2, 0x2FF8), (1, 0x11), (3, 0x33), (5, 0x6000)]) 0x36019400).main 0x6008 .word = 0x2FF8 ∧ Memory.load (after (startAt 0x400 [(2, 0x2FF8), (1, 0x11), (3, 0x33), (5, 0x6000)]) 0x36019400).main 0x600C .word = 0x33 := by decide
theorem test_restore : (after (mem (startAt 0x400 [(4, 0x6000)]) 0x6000 [0x00, 0x00, 0x00, 0x01, 0x00, 0x00, 0x70, 0x00, 0x00, 0x00, 0x00, 0x03]) 0x38329000).reg 3 = 1 ∧ (after (mem (startAt 0x400 [(4, 0x6000)]) 0x6000 [0x00, 0x00, 0x00, 0x01, 0x00, 0x00, 0x70, 0x00, 0x00, 0x00, 0x00, 0x03]) 0x38329000).reg 4 = 0x7000 ∧ (after (mem (startAt 0x400 [(4, 0x6000)]) 0x6000 [0x00, 0x00, 0x00, 0x01, 0x00, 0x00, 0x70, 0x00, 0x00, 0x00, 0x00, 0x03]) 0x38329000).reg 5 = 3 := by decide
theorem test_exch : (after (startAt 0x400 [(3, 1), (4, 2)]) 0x3A320000).reg 3 = 2 ∧ (after (startAt 0x400 [(3, 1), (4, 2)]) 0x3A320000).reg 4 = 1 := by decide
theorem test_exch_zero : (after (startAt 0x400 [(3, 0x55)]) 0x3A300000).reg 3 = 0 ∧ (after (startAt 0x400 [(3, 0x55)]) 0x3A300000).reg 0 = 0 := by decide

/-! T instructions (2.8) -/

theorem test_syscall : Memory.load (after (dat (user 0x424 []) 0xF880 [0x00, 0x00, 0x04, 0x40]) 0x04000020).main 0x2FF8 .word = 0x428 ∧ Memory.load (after (dat (user 0x424 []) 0xF880 [0x00, 0x00, 0x04, 0x40]) 0x04000020).main 0x2FFC .word = 0x03EFF000 ∧ (after (dat (user 0x424 []) 0xF880 [0x00, 0x00, 0x04, 0x40]) 0x04000020).psr = 0x83EFF000 ∧ (after (dat (user 0x424 []) 0xF880 [0x00, 0x00, 0x04, 0x40]) 0x04000020).pc = 0x440 ∧ (after (dat (user 0x424 []) 0xF880 [0x00, 0x00, 0x04, 0x40]) 0x04000020).inFault = false := by decide
theorem test_syscall_register : (after (dat (startAt 0x424 [(5, 0x1234)]) 0xF8D0 [0x00, 0x00, 0x05, 0x00]) 0x04500000).pc = 0x500 := by decide
theorem test_gsreg : (after (user 0x400 []) 0x06300000).reg 3 = 0x03EFF000 := by decide
theorem test_ssreg : (after (startAt 0x400 [(3, 0x03EFF123)]) 0x08300000).psr = 0x03EFF123 ∧ (after (startAt 0x400 [(3, 0x03EFF123)]) 0x08300000).reg 2 = 0x5000 := by decide
theorem test_sysret : (after (mem ({ startAt 0x400 [(2, 0x37F8)] with inFault := true }) 0x37F8 [0x00, 0x00, 0x04, 0x28, 0x03, 0xEF, 0xF0, 0x00]) 0x0C000000).pc = 0x428 ∧ (after (mem ({ startAt 0x400 [(2, 0x37F8)] with inFault := true }) 0x37F8 [0x00, 0x00, 0x04, 0x28, 0x03, 0xEF, 0xF0, 0x00]) 0x0C000000).psr = 0x03EFF000 ∧ (after (mem ({ startAt 0x400 [(2, 0x37F8)] with inFault := true }) 0x37F8 [0x00, 0x00, 0x04, 0x28, 0x03, 0xEF, 0xF0, 0x00]) 0x0C000000).ssp = 0x3800 ∧ (after (mem ({ startAt 0x400 [(2, 0x37F8)] with inFault := true }) 0x37F8 [0x00, 0x00, 0x04, 0x28, 0x03, 0xEF, 0xF0, 0x00]) 0x0C000000).inFault = false := by decide
theorem test_sysret_user : Memory.load (after (user 0x444 []) 0x0C000000).main 0x2FF8 .word = 0x444 ∧ (after (user 0x444 []) 0x0C000000).supervisor = true := by decide

/-! Exceptions, interrupts, reset (2.10, 70_reset_and_hazards.md) -/

theorem test_illegal_instruction : Memory.load (after (dat (startAt 0x400 []) 0xF810 [0x00, 0x00, 0x09, 0x00]) 0).main 0x2FFC .word = 0x83EFF000 ∧ Memory.load (after (dat (startAt 0x400 []) 0xF810 [0x00, 0x00, 0x09, 0x00]) 0).main 0x2FF8 .word = 0x400 ∧ (after (dat (startAt 0x400 []) 0xF810 [0x00, 0x00, 0x09, 0x00]) 0).inFault = true ∧ (after (dat (startAt 0x400 []) 0xF810 [0x00, 0x00, 0x09, 0x00]) 0).pc = 0x900 := by decide
theorem test_mbz_refused : (match step ((startAt 0x400 []).withFetchWord 32 0xC0321401) with
    | .refused .nonZeroField => true | _ => false) = true := by decide
theorem test_fetch_misaligned : (after (startAt 0x402 []) 0).inFault = true ∧
    Memory.load (after (startAt 0x402 []) 0).main 0x2FF8 .word = 0x402 := by decide
theorem test_double_fault : (after { startAt 0x400 [] with inFault := true } 0) =
    { (startAt 0x404 []) with inFault := true, halted := true } := by decide
theorem test_double_fault_stack : (after { startAt 0x400 [] with ssp := 0x3002 } 0).halted = true := by decide
theorem test_halted : (match step (startAt 0x400 []).doubleFault with | .fault .halted => true | _ => false) = true := by
  decide
theorem test_interrupt : (after { startAt 0x400 [] with psr := 0xC3EFF000, pending := [⟨1, 0x0a⟩, ⟨3, 0x0b⟩] } 0).psr =
    0xCFEFF000 := by decide
theorem test_interrupt_saves_pc : Memory.load (after { startAt 0x400 [] with
    psr := 0xC3EFF000, pending := [⟨1, 0x0a⟩, ⟨3, 0x0b⟩] } 0).main 0x2FF8 .word = 0x400 := by decide
theorem test_interrupt_not_above : (after { startAt 0x400 [] with psr := 0xCFEFF000, pending := [⟨3, 0x0b⟩] }
    0xA6000000).pc = 0x404 := by decide
theorem test_reset_psr : State.reset.psr = 0x83EFF000 := by decide
theorem test_reset_fetches_zero_and_halts : (match step State.reset with | .next t => t.halted | _ => false) = true := by
  decide

/-! Witnesses: for every statement with hypotheses, a state and operands that meet them, clause by clause, at the
bounds where a clause has one. -/

/-- An outcome whose next state has a property. -/
theorem next_with {o : Host.Outcome State Fault Refusal} {p : State → Bool}
    (h : (match o with | .next t => p t | _ => false) = true) : ∃ t, o = .next t ∧ p t = true := by
  cases o with
  | next t => exact ⟨t, rfl, h⟩
  | fault f => cases h
  | refused r => cases h

/-- Supervisor mode, MMU on: the page table at `0x8000` maps page 0 to itself (all bits set), page 1 to itself
(writable, executable, clean), page 3 to itself (neither, dirty) and page 8 (the table's own) to itself. -/
def paged (psr : Word) (regs : List (RegNum × Word)) : State :=
  { mem (dat (startAt 0x400 regs) 0xFF00 [0x00, 0x80]) 0x8000
      [0x00, 0x0F, 0x00, 0x1D, 0x00, 0x00, 0x00, 0x33, 0, 0, 0, 0, 0, 0, 0, 0, 0x00, 0x8F] with psr := psr }

/-- `psr` in supervisor mode with the MMU on. -/
def sup : Word := 0xA3EFF000

/-- `psr` in user mode with the MMU on. -/
def usr : Word := 0x23EFF000

theorem test_witness_DecodeOfEncode : (Instr.bne 31 30 (-65536)).wf = true ∧ (Instr.jal 1 2097148).wf = true ∧
    (Instr.sb 3 4 16383).wf = true := by decide
theorem test_witness_EncodeOfDecode : decode 0xC43310A0 = .ok (.idiv 3 6 4 5) := by decide
theorem test_witness_OpcodeTableSelects : decode 0xC43310A0 = .ok (.idiv 3 6 4 5) ∧
    ((0xC4000000, 0xFE00001F) : Word × Word) ∈ opcodeTable ∧ (0xC43310A0 &&& 0xFE00001F : Word) = 0xC4000000 := by decide
theorem test_witness_KnownWords : (0x0C100000 : Word) ∈ [0xC0321401, 0x0C100000, (0x04000120 : Word)] := by decide

/-- A state at `0x400` with a word there. -/
def withWord (s : State) (w : Nat) : State := s.withFetchWord 32 w

theorem test_witness_StepRunsDecodedInstruction : (withWord (startAt 0x400 []) 0x423ABCDE).runs ∧
    (withWord (startAt 0x400 []) 0x423ABCDE).deviceTurn.fetch = .ok 0x423ABCDE ∧
    decode 0x423ABCDE = .ok (.lui 3 0xABCDE) ∧ (withWord (startAt 0x400 []) 0x423ABCDE).schedule = [] := by
  unfold State.runs; decide
theorem test_witness_FetchFaults_misaligned : (startAt 0xFFFFFE []).runs ∧
    (startAt 0xFFFFFE []).deviceTurn.pc.toNat % 4 ≠ 0 := by unfold State.runs; decide
theorem test_witness_FetchFaults_beyond : (startAt 0x1000000 []).runs ∧
    (startAt 0x1000000 []).deviceTurn.pc.toNat % 4 = 0 ∧ 2 ^ 24 ≤ (startAt 0x1000000 []).deviceTurn.pc.toNat := by
  unfold State.runs; decide
theorem test_witness_FetchFaults_translate : ({ paged sup [] with pc := 0xFFFFFC } : State).runs ∧
    ({ paged sup [] with pc := 0xFFFFFC } : State).deviceTurn.translate 0xFFFFFC .fetch .word =
      .error (.raise .pageFault) ∧
    ({ paged sup [] with pc := 0xFFFFFC } : State).deviceTurn.mmuOn = true ∧ 0xFFFFFC % 4 = 0 ∧ 0xFFFFFC < 2 ^ 24 := by
  unfold State.runs; decide
theorem test_witness_FetchFaults_undefined : (startAt 0x400 []).runs ∧ (startAt 0x400 []).deviceTurn.fetch = .ok 0 ∧
    decode 0 = .error .undefinedPair := by unfold State.runs; decide

/-- Interrupts enabled, a CPU priority and requests pending. -/
def waiting (psr : Word) (l : List Request) : State := { startAt 0x400 [] with psr := psr, pending := l }

theorem test_witness_InterruptAcknowledged : (waiting 0xC3EFF000 [⟨1, 0⟩]).halted = false ∧
    (waiting 0xC3EFF000 [⟨1, 0⟩]).deviceTurn.irqEnabled = true ∧
    ∃ r ∈ (waiting 0xC3EFF000 [⟨1, 0⟩]).deviceTurn.pending,
      (waiting 0xC3EFF000 [⟨1, 0⟩]).deviceTurn.priority < r.priority :=
  ⟨by decide, by decide, ⟨1, 0⟩, by decide, by decide⟩
theorem test_witness_InterruptAcknowledged_top : (waiting 0xDBEFF000 [⟨7, 0xFF⟩]).halted = false ∧
    (waiting 0xDBEFF000 [⟨7, 0xFF⟩]).deviceTurn.irqEnabled = true ∧
    ∃ r ∈ (waiting 0xDBEFF000 [⟨7, 0xFF⟩]).deviceTurn.pending,
      (waiting 0xDBEFF000 [⟨7, 0xFF⟩]).deviceTurn.priority < r.priority :=
  ⟨by decide, by decide, ⟨7, 0xFF⟩, by decide, by decide⟩
theorem test_witness_InterruptsMasked_disabled : (waiting 0x83EFF000 [⟨7, 1⟩]).halted = false ∧
    (waiting 0x83EFF000 [⟨7, 1⟩]).deviceTurn.irqEnabled = false := by decide
theorem test_witness_InterruptsMasked_level : (waiting 0xC7EFF000 [⟨1, 1⟩]).halted = false ∧
    ∀ r ∈ (waiting 0xC7EFF000 [⟨1, 1⟩]).deviceTurn.pending,
      r.priority ≤ (waiting 0xC7EFF000 [⟨1, 1⟩]).deviceTurn.priority := by decide
theorem test_witness_InterruptsMasked_zero : (waiting 0xC3EFF000 [⟨0, 1⟩]).halted = false ∧
    ∀ r ∈ (waiting 0xC3EFF000 [⟨0, 1⟩]).deviceTurn.pending, r.priority = 0 := by decide
theorem test_witness_InterruptsMasked_seven : (waiting 0xDFEFF000 [⟨7, 1⟩]).halted = false ∧
    (waiting 0xDFEFF000 [⟨7, 1⟩]).deviceTurn.priority = 7 := by decide
theorem test_witness_InterruptsMasked_next :
    ∃ t, step (withWord (waiting 0xDFEFF000 [⟨7, 1⟩]) 0xA6000000) = .next t ∧ (!t.halted) = true :=
  next_with (by decide)
theorem test_witness_DeviceTurnFrame : (⟨1, 2⟩ : Request) ∈ (waiting 0xDFEFF000 [⟨1, 2⟩]).pending ∧
    (startAt 0x400 []).inDeviceRegion 0x20 = true ∧ (startAt 0x400 []).inDeviceRegion 0x21 = false ∧
    ({ startAt 0x400 [] with deviceRegion := [(0xFC00, 0xFEFF)] } : State).inDeviceRegion 0xFC00 = true ∧
    ({ startAt 0x400 [] with deviceRegion := [(0xFC00, 0xFEFF)] } : State).inDeviceRegion 0xFF00 = false := by decide
/-- The sizes of 00_scope.md R4. -/
theorem test_parameter_sizes : Config.ptSize = 2048 ∧ Config.pdEntries = 4 ∧ Config.mainSpace = 0x1000000 ∧
    Config.dataSize = 0x10000 := by decide
theorem test_deviceTurn_port : Memory.read ({ startAt 0x400 [] with
      deviceRegion := [(0xFC00, 0xFEFF)]
      schedule := [[.port 0xFEFF 7, .port 0xFF00 7]] } : State).deviceTurn.data 0xFEFF = 7 ∧
    Memory.read ({ startAt 0x400 [] with
      deviceRegion := [(0xFC00, 0xFEFF)]
      schedule := [[.port 0xFEFF 7, .port 0xFF00 7]] } : State).deviceTurn.data 0xFF00 = 0 := by decide

theorem test_witness_ResetCanonical : Memory.wf (2 ^ 24) [(0, 1), (0xFFFFFF, 0xFF)] = true ∧
    Memory.wf (2 ^ 16) [(0, 1), (0xFFFF, 0xFF)] = true := by decide
theorem test_witness_StepKeepsCanonicalForm : (withWord (startAt 0x400 [(4, 0xFFFFFC), (3, 1)]) 0xE8320000).wf = true ∧
    ∃ t, step (withWord (startAt 0x400 [(4, 0xFFFFFC), (3, 1)]) 0xE8320000) = .next t ∧ t.wf = true :=
  ⟨by decide, next_with (by decide)⟩
theorem test_witness_UserNeverWritesDataMemory : (withWord (user 0x400 []) 0x423ABCDE).deviceTurn.supervisor = false ∧
    ∃ t, step (withWord (user 0x400 []) 0x423ABCDE) = .next t ∧ (!t.supervisor) = true :=
  ⟨by decide, next_with (by decide)⟩
theorem test_witness_UserEntersSupervisorByTrapEntry :
    (withWord (user 0x400 []) 0x04000020).deviceTurn.supervisor = false ∧
    ∃ t, step (withWord (user 0x400 []) 0x04000020) = .next t ∧ t.supervisor = true :=
  ⟨by decide, next_with (by decide)⟩
theorem test_witness_StackBanks_supervisor : (startAt 0x400 []).supervisor = true ∧
    ∃ t, exec (.push 3 2) (startAt 0x400 []) = .next t ∧ t.supervisor = true := ⟨by decide, next_with (by decide)⟩
theorem test_witness_StackBanks_user : (user 0x400 []).supervisor = false ∧
    ∃ t, exec (.push 3 2) (user 0x400 []) = .next t ∧ (!t.supervisor) = true := ⟨by decide, next_with (by decide)⟩
theorem test_witness_StatusWriters : ∃ t, exec (.ssreg 3) (startAt 0x400 []) = .next t ∧ (!t.supervisor) = true :=
  next_with (by decide)
theorem test_witness_RegisterAccess : (startAt 0x400 []).supervisor = true ∧ (user 0x400 []).supervisor = false ∧
    (31 : RegNum) ≠ 0 ∧ (1 : RegNum) ≠ 2 := by decide

theorem test_witness_TrapEntryEffects_least : ({ startAt 0x400 [] with ssp := 8 } : State).mmuOn = false ∧
    (8 : Word).toNat % 4 = 0 ∧ 8 ≤ (8 : Word).toNat ∧ (8 : Word).toNat ≤ 2 ^ 24 ∧
    ¬ (TrapKind.fault = .fault ∧ ({ startAt 0x400 [] with ssp := 8 } : State).inFault = true) := by decide
theorem test_witness_TrapEntryEffects_greatest : ({ user 0x400 [] with ssp := 0x1000000, inFault := true } : State).mmuOn = false ∧
    (0x1000000 : Word).toNat % 4 = 0 ∧ 8 ≤ (0x1000000 : Word).toNat ∧ (0x1000000 : Word).toNat ≤ 2 ^ 24 ∧
    ¬ (TrapKind.trap = .fault ∧ ({ user 0x400 [] with ssp := 0x1000000, inFault := true } : State).inFault = true) := by decide
theorem test_witness_TrapEntryEffects_translated :
    ¬ (TrapKind.fault = .fault ∧ ({ paged usr [] with ssp := 0x1004 } : State).inFault = true) ∧
    AllowedWrite ({ paged usr [] with ssp := 0x1004 } : State).asSupervisor (0x1004 - 4) .word
      { phys := 0x1000, dirty := some (0x8002, 0x1F) } ∧
    AllowedWrite ({ paged usr [] with ssp := 0x1004 } : State).asSupervisor (0x1004 - 8) .word
      { phys := 0xFFC, dirty := none } ∧
    ∀ p ∈ ({ paged usr [] with ssp := 0x1004 } : State).entriesOf (0x1004 - 4) .word ++
        ({ paged usr [] with ssp := 0x1004 } : State).entriesOf (0x1004 - 8) .word,
      Apart 0x1000 4 p 2 ∧ Apart 0xFFC 4 p 2 := by unfold AllowedWrite Apart; decide
theorem test_witness_TrapThenReturn : (user 0x400 []).mmuOn = false ∧ (user 0x400 []).ssp.toNat % 4 = 0 ∧
    8 ≤ (user 0x400 []).ssp.toNat ∧ (user 0x400 []).ssp.toNat ≤ 2 ^ 24 ∧
    ¬ (TrapKind.interrupt 3 = .fault ∧ (user 0x400 []).inFault = true) := by decide
theorem test_witness_TrapEntryFrame : (user 0x400 []).trapEntry .fault 4 0x400 ≠ (user 0x400 []).doubleFault ∧
    (paged usr []).trapEntry (.interrupt 3) 4 0x400 = (paged usr []).doubleFault ∧
    ({ paged usr [] with ssp := 0x2000 } : State).trapEntry (.interrupt 3) 4 0x400 ≠
      ({ paged usr [] with ssp := 0x2000 } : State).doubleFault := by decide
theorem test_witness_DoubleFaultHalts : ({ startAt 0x400 [] with inFault := true } : State).inFault = true ∧
    ((0xFFFFFA : Word).toNat % 4 ≠ 0) ∧ (4 : Word).toNat < 8 ∧ 2 ^ 24 < (0x1000004 : Word).toNat ∧
    (startAt 0x400 []).doubleFault.halted = true := by decide
theorem test_witness_DoubleFaultHalts_pushes :
    (paged usr []).asSupervisor.locate ((paged usr []).ssp - 4) .write .word = .error (.raise .pageFault) ∧
    ({ paged sup [] with ssp := 0x3004 } : State).asSupervisor.locate (0x3004 - 8) .write .word =
      .error (.raise .pageFault) := by decide
theorem test_witness_PrivilegedInUserMode : (user 0x400 []).supervisor = false := by decide
theorem test_witness_DivisionByZero : fitsImm15 0 = true ∧ fitsImm15 (-16384) = true ∧ (-16384 : Int) ≠ 0 ∧
    (startAt 0x400 [(4, 1)]).reg 0 = 0 ∧ (startAt 0x400 [(4, 1)]).reg 4 ≠ 0 := by decide

theorem test_witness_MainAccessChecks_write : (0xFFFFFE : Word).toNat % Size.word.bytes ≠ 0 ∧
    ((0x1000000 : Word).toNat % Size.byte.bytes = 0 ∧ 2 ^ 24 < (0x1000000 : Word).toNat + Size.byte.bytes) ∧
    ((0xFFFFFC : Word).toNat % Size.word.bytes = 0 ∧ (0xFFFFFC : Word).toNat + Size.word.bytes ≤ 2 ^ 24 ∧
      (startAt 0x400 []).mmuOn = false) := by decide
theorem test_witness_MainAccessChecks_read : (startAt 0x400 []).locate 0x1002 .read .word = .error (.raise .addressError) ∧
    (paged usr []).locate 0x3FFC .read .word = .ok { phys := 0x3FFC, dirty := none } := by decide
theorem test_witness_MainAccessChecks_translated : (paged sup []).mmuOn = true ∧
    (paged sup []).translate 0x2000 .write .word = .error (.raise .pageFault) ∧
    (paged sup []).translate 0x1FFC .write .word = .ok { phys := 0x1FFC, dirty := some (0x8002, 0x1F) } ∧
    (0x1FFC : Word).toNat % Size.word.bytes = 0 ∧ (0x1FFC : Word).toNat + Size.word.bytes ≤ 2 ^ 24 := by decide
theorem test_witness_MainAccessChecks_fetch : (startAt 2 []).pc.toNat % 4 ≠ 0 ∧
    ((startAt 0x1000000 []).pc.toNat % 4 = 0 ∧ 2 ^ 24 < (startAt 0x1000000 []).pc.toNat + 4) ∧
    ((startAt 0xFFFFFC []).pc.toNat % 4 = 0 ∧ (startAt 0xFFFFFC []).pc.toNat + 4 ≤ 2 ^ 24 ∧
      (startAt 0xFFFFFC []).mmuOn = false) ∧
    ((paged usr []).mmuOn = true ∧ (paged usr []).pc.toNat % 4 = 0 ∧ (paged usr []).pc.toNat + 4 ≤ 2 ^ 24 ∧
      (paged usr []).translate (paged usr []).pc .fetch .word = .ok { phys := 0x400, dirty := none }) ∧
    ({ paged usr [] with pc := 0x3000 } : State).translate 0x3000 .fetch .word = .error (.raise .accessViolation) := by
  decide

/-- The numbers that `TranslationRule` takes for the pages of `paged`. -/
def tableNumbers (s : State) (va : Word) (pteAddr pte : Nat) : Bool :=
  (Memory.load s.data (256 * s.pdtField.toNat + 2 * (va.toNat / 2 ^ 22 % 4)) .half).toNat == 0x80 &&
  pteAddr == 0x80 / 16 * 4096 + 2 * (va.toNat / 2 ^ 12 % 1024) && pte == (Memory.load s.main pteAddr .half).toNat

theorem test_witness_TranslationRule_absent : tableNumbers (paged sup []) 0x2000 0x8004 0 = true ∧ 0 % 2 = 0 ∧
    (0x2000 : Word).toNat % Size.word.bytes = 0 := by decide
theorem test_witness_TranslationRule_refused : tableNumbers (paged usr []) 0x3FFE 0x8006 0x33 = true ∧ 0x33 % 2 = 1 ∧
    (paged usr []).supervisor = false ∧ 0x33 / 8 % 2 = 0 ∧ 0x33 / 4 % 2 = 0 ∧
    (0x3FFE : Word).toNat % Size.half.bytes = 0 := by decide
theorem test_witness_TranslationRule_allowed : tableNumbers (paged usr []) 0x1FFF 0x8002 0x1D = true ∧ 0x1D % 2 = 1 ∧
    0x1D / 8 % 2 = 1 ∧ 0x1D / 4 % 2 = 1 ∧ 0x1D / 2 % 2 = 0 ∧ (0x1FFF : Word).toNat % Size.byte.bytes = 0 := by decide
theorem test_witness_PagingFaultsOnlyByTranslation :
    (paged sup []).locate 0x2000 .read .byte = .error (.raise .pageFault) ∧
    (paged usr []).locate 0x3000 .write .byte = .error (.raise .accessViolation) := by decide
theorem test_witness_DirtyBitSet : (paged usr []).mmuOn = true ∧
    (paged usr []).locate 0x1FFC .write .word = .ok { phys := 0x1FFC, dirty := some (0x8002, 0x1F) } ∧
    (∃ t, (paged usr []).memWrite 0x1FFC .word 7 = .ok t) ∧ Apart ((paged usr []).pteAddr 0x1FFC) 2 0x1FFC 4 := by
  refine ⟨by decide, by decide, ?_, by unfold Apart; decide⟩
  rw [State.memWrite_eq, show (paged usr []).locate 0x1FFC .write .word =
    .ok { phys := 0x1FFC, dirty := some (0x8002, 0x1F) } by decide]
  exact ⟨_, rfl⟩
theorem test_witness_LoadAfterStore_main : (3 : RegNum) ≠ 0 ∧
    PlainAccess (startAt 0x400 [(4, 0xFFFFFC)]) ((startAt 0x400 [(4, 0xFFFFFC)]).effAddr 4 0) .word ∧
    PlainAccess (startAt 0x400 [(4, 0xFFFFFC)]) ((startAt 0x400 [(4, 0xFFFFFC)]).effAddr 4 2) .half ∧
    PlainAccess (startAt 0x400 [(4, 0xFFFFFC)]) ((startAt 0x400 [(4, 0xFFFFFC)]).effAddr 4 3) .byte := by
  unfold PlainAccess; decide
theorem test_witness_LoadAfterStore_data : (startAt 0x400 [(4, 0xFFFC)]).supervisor = true ∧
    DataAccess ((startAt 0x400 [(4, 0xFFFC)]).effAddr 4 0) .word ∧
    DataAccess ((startAt 0x400 [(4, 0xFFFC)]).effAddr 4 2) .half ∧
    DataAccess ((startAt 0x400 [(4, 0xFFFC)]).effAddr 4 3) .byte := by unfold DataAccess; decide
theorem test_witness_AccessFaults_main :
    (startAt 0x400 [(4, 0x1000000)]).locate ((startAt 0x400 [(4, 0x1000000)]).effAddr 4 0) .read .byte =
      .error (.raise .busError) ∧
    (startAt 0x400 [(4, 0x1001)]).locate ((startAt 0x400 [(4, 0x1001)]).effAddr 4 0) .read .half =
      .error (.raise .addressError) ∧
    (startAt 0x400 [(4, 0x1002)]).locate ((startAt 0x400 [(4, 0x1002)]).effAddr 4 0) .read .word =
      .error (.raise .addressError) ∧
    (paged usr [(4, 0x3000)]).locate ((paged usr [(4, 0x3000)]).effAddr 4 0) .write .byte =
      .error (.raise .accessViolation) ∧
    (paged sup [(4, 0x2000)]).locate ((paged sup [(4, 0x2000)]).effAddr 4 0) .write .half =
      .error (.raise .pageFault) ∧
    (startAt 0x400 [(4, 0x1000000)]).locate ((startAt 0x400 [(4, 0x1000000)]).effAddr 4 0) .write .word =
      .error (.raise .busError) := by decide
theorem test_witness_AccessFaults_stack :
    (startAt 0x400 [(4, 0x1000000)]).locate ((startAt 0x400 [(4, 0x1000000)]).reg 4) .read .byte =
      .error (.raise .busError) ∧
    (startAt 0x400 [(4, 0x1001)]).locate ((startAt 0x400 [(4, 0x1001)]).reg 4) .read .half =
      .error (.raise .addressError) ∧
    (startAt 0x400 [(4, 0x1001)]).locate ((startAt 0x400 [(4, 0x1001)]).reg 4) .read .word =
      .error (.raise .addressError) ∧
    (startAt 0x400 []).locate ((startAt 0x400 []).reg 0 - 1) .write .byte = .error (.raise .busError) ∧
    (startAt 0x400 [(4, 0x1001)]).locate ((startAt 0x400 [(4, 0x1001)]).reg 4 - 2) .write .half =
      .error (.raise .addressError) ∧
    (startAt 0x400 [(4, 0x1001)]).locate ((startAt 0x400 [(4, 0x1001)]).reg 4 - 4) .write .word =
      .error (.raise .addressError) := by decide
theorem test_witness_AccessFaults_second :
    (mem (paged usr [(4, 0x3000)]) 0x3000 [0, 0, 0x30, 0]).locate
      ((mem (paged usr [(4, 0x3000)]) 0x3000 [0, 0, 0x30, 0]).reg 4) .read .word = .ok { phys := 0x3000, dirty := none } ∧
    (mem (paged usr [(4, 0x3000)]) 0x3000 [0, 0, 0x30, 0]).locate
      (Memory.load (mem (paged usr [(4, 0x3000)]) 0x3000 [0, 0, 0x30, 0]).main 0x3000 .word) .write .word =
        .error (.raise .accessViolation) ∧
    (mem (paged usr [(4, 0x3000)]) 0x3000 [0, 0, 0x20, 0]).locate
      (Memory.load (mem (paged usr [(4, 0x3000)]) 0x3000 [0, 0, 0x20, 0]).main 0x3000 .word) .read .word =
        .error (.raise .pageFault) := by decide
theorem test_witness_AccessFaults_copy : FirstStop (paged usr [(3, 0x3FFF), (4, 0xFFF), (5, 2)])
    (copyAccesses 0x3FFF 0xFFF 2) .pageFault :=
  ⟨[(0x3FFF, .read, .byte), (0xFFF, .write, .byte)], [(0x1000, .write, .byte)], (0x4000, .read, .byte), by decide, by
    intro y hy
    simp only [List.mem_cons, List.not_mem_nil, or_false] at hy
    rcases hy with rfl | rfl
    · exact ⟨{ phys := 0x3FFF, dirty := none }, by decide⟩
    · exact ⟨{ phys := 0xFFF, dirty := none }, by decide⟩, by decide⟩
theorem test_witness_AccessFaults_swap : FirstStop (paged usr [(3, 0x3000), (4, 0), (5, 1)]) (swapAccesses 0x3000 0 1)
    .accessViolation :=
  ⟨[(0x3000, .read, .byte), (0, .read, .byte)], [(0, .write, .byte)], (0x3000, .write, .byte), by decide, by
    intro y hy
    simp only [List.mem_cons, List.not_mem_nil, or_false] at hy
    rcases hy with rfl | rfl
    · exact ⟨{ phys := 0x3000, dirty := none }, by decide⟩
    · exact ⟨{ phys := 0, dirty := none }, by decide⟩, by decide⟩
theorem test_witness_AccessFaults_fill : FirstStop (startAt 0x400 [(3, 0xFFFFFF), (4, 2)]) (fillAccesses 0xFFFFFF 2)
    .busError :=
  ⟨[(0xFFFFFF, .write, .byte)], [], (0x1000000, .write, .byte), by decide, by
    intro y hy
    simp only [List.mem_cons, List.not_mem_nil, or_false] at hy
    exact ⟨{ phys := 0xFFFFFF, dirty := none }, by rw [hy]; decide⟩, by decide⟩
theorem test_witness_AccessFaults_range : FirstStop (paged sup [(5, 0x1FFC)]) (rangeAccesses .write 0x1FFC 2) .pageFault ∧
    FirstStop (startAt 0x400 [(5, 2)]) (rangeAccesses .read 2 2) .addressError :=
  ⟨⟨[(0x1FFC, .write, .word)], [], (0x2000, .write, .word), by decide, by
      intro y hy
      simp only [List.mem_cons, List.not_mem_nil, or_false] at hy
      exact ⟨{ phys := 0x1FFC, dirty := some (0x8002, 0x1F) }, by rw [hy]; decide⟩, by decide⟩,
    ⟨[], [(6, .read, .word)], (2, .read, .word), by decide, by simp, by decide⟩⟩
theorem test_witness_AccessFaults_data : (startAt 0x400 [(4, 0xFFFD)]).supervisor = true ∧
    ((startAt 0x400 [(4, 0xFFFD)]).effAddr 4 0).toNat % 2 = 1 ∧ ((startAt 0x400 [(4, 0xFFFD)]).effAddr 4 0).toNat % 4 ≠ 0 ∧
    2 ^ 16 ≤ ((startAt 0x400 [(4, 0x10000)]).effAddr 4 0).toNat ∧
    ((startAt 0x400 [(4, 0x10000)]).effAddr 4 0).toNat % 4 = 0 ∧
    ((startAt 0x400 [(4, 0x10000)]).effAddr 4 0).toNat % 2 = 0 := by decide

theorem test_witness_ConditionalBranches : fitsJump15 65532 = true ∧ fitsJump15 (-65536) = true ∧
    (startAt 0x400 []).pc.toNat % 4 = 0 := by decide
theorem test_witness_MainLoads :
    (paged usr [(4, 0x1FFC)]).locate ((paged usr [(4, 0x1FFC)]).effAddr 4 3) .read .byte = .ok { phys := 0x1FFF, dirty := none } ∧
    (paged usr [(4, 0x1FFC)]).locate ((paged usr [(4, 0x1FFC)]).effAddr 4 2) .read .half = .ok { phys := 0x1FFE, dirty := none } ∧
    (startAt 0x400 [(4, 0xFFFFFC)]).locate ((startAt 0x400 [(4, 0xFFFFFC)]).effAddr 4 0) .read .word =
      .ok { phys := 0xFFFFFC, dirty := none } := by decide
theorem test_witness_DataLoads : (startAt 0x400 [(4, 0xFFFC)]).supervisor = true ∧
    0xFFFC = ((startAt 0x400 [(4, 0xFFFC)]).effAddr 4 0).toNat ∧
    DataAccess ((startAt 0x400 [(4, 0xFFFC)]).effAddr 4 0) .byte ∧
    DataAccess ((startAt 0x400 [(4, 0xFFFC)]).effAddr 4 0) .half ∧
    DataAccess ((startAt 0x400 [(4, 0xFFFC)]).effAddr 4 0) .word := by unfold DataAccess; decide
theorem test_witness_MainStores :
    (paged usr [(4, 0x1FFC)]).locate ((paged usr [(4, 0x1FFC)]).effAddr 4 3) .write .byte =
      .ok { phys := 0x1FFF, dirty := some (0x8002, 0x1F) } ∧
    (paged sup [(4, 0x3FFC)]).locate ((paged sup [(4, 0x3FFC)]).effAddr 4 2) .write .half = .ok { phys := 0x3FFE, dirty := none } ∧
    (user 0x400 [(4, 0xFFFFFC)]).locate ((user 0x400 [(4, 0xFFFFFC)]).effAddr 4 0) .write .word =
      .ok { phys := 0xFFFFFC, dirty := none } := by decide
theorem test_witness_DataStores : (startAt 0x400 [(4, 0xFFFC)]).supervisor = true ∧
    DataAccess ((startAt 0x400 [(4, 0xFFFC)]).effAddr 4 3) .byte ∧
    DataAccess ((startAt 0x400 [(4, 0xFFFC)]).effAddr 4 2) .half ∧
    DataAccess ((startAt 0x400 [(4, 0xFFFC)]).effAddr 4 0) .word := by unfold DataAccess; decide
theorem test_witness_ImmediateArithmetic : fitsImm15 (-16384) = true ∧ fitsImm15 16383 = true ∧ (16383 : Int) ≠ 0 := by
  decide
theorem test_witness_ImmediateShifts : fitsImm15 (-1) = true ∧ ((31 : Nat) : Int) = -1 % 32 ∧ fitsImm15 32 = true ∧
    ((0 : Nat) : Int) = 32 % 32 := by decide
theorem test_witness_RegisterShifts : 31 = ((startAt 0x400 [(5, 0xFFFFFFFF)]).reg 5).toNat % 32 := by decide
theorem test_witness_SignedDivide : (startAt 0x400 [(4, 0x80000000), (5, 0xFFFFFFFF)]).reg 5 ≠ 0 ∧
    (startAt 0x400 [(4, 0x80000000), (5, 0xFFFFFFFF)]).reg 4 = 0x80000000 := by decide

theorem test_witness_Pops : (Size.half = .byte ∧ Instr.poph 3 2 = .popb 3 2 ∨ Size.half = .half ∧ Instr.poph 3 2 = .poph 3 2 ∨
      Size.half = .word ∧ Instr.poph 3 2 = .pop 3 2) ∧
    (startAt 0x400 [(2, 0xFFFFFE)]).locate ((startAt 0x400 [(2, 0xFFFFFE)]).reg 2) .read .half =
      .ok { phys := 0xFFFFFE, dirty := none } ∧ (2 : RegNum) ≠ 3 := by decide
theorem test_witness_Pushes : (Size.word = .byte ∧ Instr.push 3 2 = .pushb 3 2 ∨ Size.word = .half ∧ Instr.push 3 2 = .pushh 3 2 ∨
      Size.word = .word ∧ Instr.push 3 2 = .push 3 2) ∧
    (paged sup [(2, 0x2000)]).locate ((paged sup [(2, 0x2000)]).reg 2 - BitVec.ofNat 32 Size.word.bytes) .write .word =
      .ok { phys := 0x1FFC, dirty := some (0x8002, 0x1F) } ∧
    ¬ ChangesUsedEntry (paged sup [(2, 0x2000)]) ((paged sup [(2, 0x2000)]).entriesOf 0x1FFC .word)
      { phys := 0x1FFC, dirty := some (0x8002, 0x1F) } .word 7 := by unfold ChangesUsedEntry; decide
theorem test_witness_Pushes_refused :
    (paged sup [(5, 0x8014)]).locate ((paged sup [(5, 0x8014)]).reg 5 - BitVec.ofNat 32 Size.word.bytes) .write .word =
      .ok { phys := 0x8010, dirty := none } ∧
    ChangesUsedEntry (paged sup [(5, 0x8014)]) ((paged sup [(5, 0x8014)]).entriesOf 0x8010 .word)
      { phys := 0x8010, dirty := none } .word 7 := by unfold ChangesUsedEntry; decide
theorem test_witness_PushThenPop : (2 : RegNum) ≠ 0 ∧ (5 : RegNum) ≠ 0 ∧ (5 : RegNum) ≠ 2 ∧
    PlainAccess (startAt 0x400 [(2, 4)]) ((startAt 0x400 [(2, 4)]).reg 2 - 4) .word ∧
    PlainAccess (startAt 0x400 [(2, 0x1000000)]) ((startAt 0x400 [(2, 0x1000000)]).reg 2 - 2) .half ∧
    PlainAccess (startAt 0x400 [(2, 1)]) ((startAt 0x400 [(2, 1)]).reg 2 - 1) .byte := by unfold PlainAccess; decide
/-- The translation of a write to page 0 (already dirty) or page 1 (not yet) of `paged`. -/
def pageEdge (a : Nat) : Translation := { phys := a, dirty := if a < 0x1000 then none else some (0x8002, 0x1F) }

theorem test_witness_SaveRange : 2 = (11 : RegNum).toNat + 1 - (10 : RegNum).toNat ∧ ∀ k, k < 2 →
    AllowedWrite (paged sup [(5, 0xFFC)]) ((paged sup [(5, 0xFFC)]).reg 5 + BitVec.ofNat 32 (4 * k)) .word
      (pageEdge (0xFFC + 4 * k)) ∧
    (∀ j, j < 2 → j ≠ k → Apart (pageEdge (0xFFC + 4 * j)).phys 4 (pageEdge (0xFFC + 4 * k)).phys 4) ∧
    ∀ p ∈ (paged sup [(5, 0xFFC)]).entriesUsed (rangeAccesses .write ((paged sup [(5, 0xFFC)]).reg 5) 2),
      Apart (pageEdge (0xFFC + 4 * k)).phys 4 p 2 := by unfold AllowedWrite Apart; decide
theorem test_witness_SaveRange_entries :
    AllowedWrite (paged sup [(5, 0x8010)]) 0x8010 .word { phys := 0x8010, dirty := none } ∧
    WritesChangeEntry (paged sup [(5, 0x8010)]) ((paged sup [(5, 0x8010)]).entriesUsed (rangeAccesses .write 0x8010 1))
      (fun _ => { phys := 0x8010, dirty := none }) .word (fun k _ => (paged sup [(5, 0x8010)]).reg (10 + BitVec.ofNat 5 k)) 1 ∧
    ¬ WritesChangeEntry (paged sup [(5, 0x8014)]) ((paged sup [(5, 0x8014)]).entriesUsed (rangeAccesses .write 0x8014 1))
      (fun _ => { phys := 0x8014, dirty := none }) .word (fun k _ => (paged sup [(5, 0x8014)]).reg (10 + BitVec.ofNat 5 k)) 1 := by
  unfold AllowedWrite WritesChangeEntry ChangesUsedEntry; decide
theorem test_witness_SaveRange_empty : 0 = (10 : RegNum).toNat + 1 - (11 : RegNum).toNat := by decide
theorem test_witness_RestoreRange : 3 = (3 : RegNum).toNat + 1 - (1 : RegNum).toNat ∧ ∀ k, k < 3 →
    AllowedRead (startAt 0x400 [(5, 0xFFFFF4)]) ((startAt 0x400 [(5, 0xFFFFF4)]).reg 5 + BitVec.ofNat 32 (4 * k)) .word
      (0xFFFFF4 + 4 * k) := by unfold AllowedRead; decide
theorem test_witness_CopyBuffer : 2 = ((paged usr [(3, 0x3000), (4, 0xFFF), (5, 2)]).reg 5).toNat ∧
    (∀ k, k < 2 →
      AllowedRead (paged usr [(3, 0x3000), (4, 0xFFF), (5, 2)])
        ((paged usr [(3, 0x3000), (4, 0xFFF), (5, 2)]).reg 3 + BitVec.ofNat 32 k) .byte (0x3000 + k) ∧
      AllowedWrite (paged usr [(3, 0x3000), (4, 0xFFF), (5, 2)])
        ((paged usr [(3, 0x3000), (4, 0xFFF), (5, 2)]).reg 4 + BitVec.ofNat 32 k) .byte (pageEdge (0xFFF + k))) ∧
    ∀ j k, j < 2 → k < 2 → 0x3000 + j ≠ 0xFFF + k ∧ (j ≠ k → 0xFFF + j ≠ 0xFFF + k) := by
  refine ⟨by decide, by unfold AllowedRead AllowedWrite; decide, fun j k hj hk => ⟨by omega, by omega⟩⟩
theorem test_witness_CopyBuffer_entries : ∀ k, k < 2 →
    ∀ p ∈ (paged usr [(3, 0x3000), (4, 0xFFF), (5, 2)]).entriesUsed (copyAccesses 0x3000 0xFFF 2),
      Apart (0x3000 + k) 1 p 2 ∧ Apart (0xFFF + k) 1 p 2 := by unfold Apart; decide
theorem test_witness_CopyBuffer_changes :
    AllowedRead (paged sup [(3, 0x3000), (4, 0x8011), (5, 1)]) 0x3000 .byte 0x3000 ∧
    AllowedWrite (paged sup [(3, 0x3000), (4, 0x8011), (5, 1)]) 0x8011 .byte { phys := 0x8011, dirty := none } ∧
    WritesChangeEntry (paged sup [(3, 0x3000), (4, 0x8011), (5, 1)])
      ((paged sup [(3, 0x3000), (4, 0x8011), (5, 1)]).entriesUsed (copyAccesses 0x3000 0x8011 1))
      (fun _ => { phys := 0x8011, dirty := none }) .byte (fun _ t => Memory.load t.main 0x3000 .byte) 1 ∧
    ¬ WritesChangeEntry (paged sup [(3, 0x3000), (4, 0x8012), (5, 1)])
      ((paged sup [(3, 0x3000), (4, 0x8012), (5, 1)]).entriesUsed (copyAccesses 0x3000 0x8012 1))
      (fun _ => { phys := 0x8012, dirty := none }) .byte (fun _ t => Memory.load t.main 0x3000 .byte) 1 := by
  unfold AllowedRead AllowedWrite WritesChangeEntry ChangesUsedEntry; decide
theorem test_witness_CopyBuffer_overlap : 2 = ((startAt 0x400 [(3, 0x1000), (4, 0x1001), (5, 2)]).reg 5).toNat ∧
    (∀ k, k < 2 →
      AllowedRead (startAt 0x400 [(3, 0x1000), (4, 0x1001), (5, 2)])
        ((startAt 0x400 [(3, 0x1000), (4, 0x1001), (5, 2)]).reg 3 + BitVec.ofNat 32 k) .byte (0x1000 + k) ∧
      AllowedWrite (startAt 0x400 [(3, 0x1000), (4, 0x1001), (5, 2)])
        ((startAt 0x400 [(3, 0x1000), (4, 0x1001), (5, 2)]).reg 4 + BitVec.ofNat 32 k) .byte { phys := 0x1001 + k, dirty := none }) ∧
    1 < 2 ∧ 0 < 2 ∧ 0x1000 + 1 = 0x1001 + 0 := by
  refine ⟨by decide, by unfold AllowedRead AllowedWrite; decide, by decide⟩
theorem test_witness_SwapBuffers : 2 = ((startAt 0x400 [(3, 0xFFFFFE), (4, 0), (5, 2)]).reg 5).toNat ∧
    (∀ k, k < 2 →
      AllowedRead (startAt 0x400 [(3, 0xFFFFFE), (4, 0), (5, 2)])
        ((startAt 0x400 [(3, 0xFFFFFE), (4, 0), (5, 2)]).reg 3 + BitVec.ofNat 32 k) .byte (0xFFFFFE + k) ∧
      AllowedRead (startAt 0x400 [(3, 0xFFFFFE), (4, 0), (5, 2)])
        ((startAt 0x400 [(3, 0xFFFFFE), (4, 0), (5, 2)]).reg 4 + BitVec.ofNat 32 k) .byte k ∧
      AllowedWrite (startAt 0x400 [(3, 0xFFFFFE), (4, 0), (5, 2)])
        ((startAt 0x400 [(3, 0xFFFFFE), (4, 0), (5, 2)]).reg 3 + BitVec.ofNat 32 k) .byte { phys := 0xFFFFFE + k, dirty := none } ∧
      AllowedWrite (startAt 0x400 [(3, 0xFFFFFE), (4, 0), (5, 2)])
        ((startAt 0x400 [(3, 0xFFFFFE), (4, 0), (5, 2)]).reg 4 + BitVec.ofNat 32 k) .byte { phys := k, dirty := none }) ∧
    (∀ j k, j < 2 → k < 2 → 0xFFFFFE + j ≠ k ∧ (j ≠ k → 0xFFFFFE + j ≠ 0xFFFFFE + k ∧ j ≠ k)) ∧
    ∀ a, (startAt 0x400 [(3, 0xFFFFFE), (4, 0), (5, 2)]).entriesOf a .byte = [] := by
  refine ⟨by decide, by unfold AllowedRead AllowedWrite; decide, fun j k _ _ => ⟨by omega, fun h => ⟨by omega, h⟩⟩, ?_⟩
  intro a
  unfold State.entriesOf
  rw [if_neg (by decide)]
theorem test_witness_SwapBuffers_overlap : 2 = ((startAt 0x400 [(3, 0), (4, 1), (5, 2)]).reg 5).toNat ∧
    (∀ k, k < 2 →
      AllowedRead (startAt 0x400 [(3, 0), (4, 1), (5, 2)])
        ((startAt 0x400 [(3, 0), (4, 1), (5, 2)]).reg 3 + BitVec.ofNat 32 k) .byte (0 + k) ∧
      AllowedRead (startAt 0x400 [(3, 0), (4, 1), (5, 2)])
        ((startAt 0x400 [(3, 0), (4, 1), (5, 2)]).reg 4 + BitVec.ofNat 32 k) .byte (1 + k) ∧
      AllowedWrite (startAt 0x400 [(3, 0), (4, 1), (5, 2)])
        ((startAt 0x400 [(3, 0), (4, 1), (5, 2)]).reg 3 + BitVec.ofNat 32 k) .byte { phys := 0 + k, dirty := none } ∧
      AllowedWrite (startAt 0x400 [(3, 0), (4, 1), (5, 2)])
        ((startAt 0x400 [(3, 0), (4, 1), (5, 2)]).reg 4 + BitVec.ofNat 32 k) .byte { phys := 1 + k, dirty := none }) ∧
    1 < 2 ∧ 0 < 2 ∧ 0 + 1 = 1 + 0 := by
  refine ⟨by decide, by unfold AllowedRead AllowedWrite; decide, by decide⟩
theorem test_witness_SwapBuffers_changes :
    AllowedRead (paged sup [(3, 0x3000), (4, 0x8011), (5, 1)]) 0x3000 .byte 0x3000 ∧
    AllowedRead (paged sup [(3, 0x3000), (4, 0x8011), (5, 1)]) 0x8011 .byte 0x8011 ∧
    AllowedWrite (paged sup [(3, 0x3000), (4, 0x8011), (5, 1)]) 0x3000 .byte { phys := 0x3000, dirty := none } ∧
    AllowedWrite (paged sup [(3, 0x3000), (4, 0x8011), (5, 1)]) 0x8011 .byte { phys := 0x8011, dirty := none } ∧
    SwapsChangeEntry (paged sup [(3, 0x3000), (4, 0x8011), (5, 1)])
      ((paged sup [(3, 0x3000), (4, 0x8011), (5, 1)]).entriesUsed (swapAccesses 0x3000 0x8011 1))
      (fun _ => { phys := 0x3000, dirty := none }) (fun _ => { phys := 0x8011, dirty := none }) 1 ∧
    ¬ SwapsChangeEntry (paged sup [(3, 0x3000), (4, 0x8012), (5, 1)])
      ((paged sup [(3, 0x3000), (4, 0x8012), (5, 1)]).entriesUsed (swapAccesses 0x3000 0x8012 1))
      (fun _ => { phys := 0x3000, dirty := none }) (fun _ => { phys := 0x8012, dirty := none }) 1 := by
  unfold AllowedRead AllowedWrite SwapsChangeEntry ChangesUsedEntry; decide
theorem test_witness_FillBuffer : 2 = ((paged usr [(3, 0xFFF), (4, 2)]).reg 4).toNat ∧ ∀ k, k < 2 →
    AllowedWrite (paged usr [(3, 0xFFF), (4, 2)]) ((paged usr [(3, 0xFFF), (4, 2)]).reg 3 + BitVec.ofNat 32 k) .byte
      (pageEdge (0xFFF + k)) ∧
    ∀ p ∈ (paged usr [(3, 0xFFF), (4, 2)]).entriesUsed (fillAccesses ((paged usr [(3, 0xFFF), (4, 2)]).reg 3) 2),
      Apart (0xFFF + k) 1 p 2 := by unfold AllowedWrite Apart; decide
theorem test_witness_FillBuffer_changes :
    AllowedWrite (paged sup [(3, 0x8010), (4, 1)]) 0x8010 .byte { phys := 0x8010, dirty := none } ∧
    WritesChangeEntry (paged sup [(3, 0x8010), (4, 1)]) ((paged sup [(3, 0x8010), (4, 1)]).entriesUsed (fillAccesses 0x8010 1))
      (fun _ => { phys := 0x8010, dirty := none }) .byte (fun _ _ => 7) 1 ∧
    ¬ WritesChangeEntry (paged sup [(3, 0x8010), (4, 1)]) ((paged sup [(3, 0x8010), (4, 1)]).entriesUsed (fillAccesses 0x8010 1))
      (fun _ => { phys := 0x8010, dirty := none }) .byte (fun _ _ => 0) 1 := by
  unfold AllowedWrite WritesChangeEntry ChangesUsedEntry; decide
theorem test_witness_FillBuffer_empty : 0 = ((startAt 0x400 []).reg 4).toNat := by decide
theorem test_witness_PlainAccessesAllowed : (startAt 0x400 []).mmuOn = false ∧ 1 < 2 ∧
    (0xFFFFFE : Word).toNat + 2 ≤ 2 ^ 24 ∧ (0xFFFFF8 : Word).toNat % 4 = 0 ∧ (0xFFFFF8 : Word).toNat + 4 * 2 ≤ 2 ^ 24 := by
  decide
theorem test_witness_BulkInstructionsFrame : Instr.through 3 4 ∈ [.copy 3 4 5, .swap 3 4 5, .fill 3 4 5, .save 3 4 5, .through 3 4] ∧
    ∃ t, exec (.through 3 4) (startAt 0x400 [(4, 0x1000)]) = .next t ∧ (!t.halted) = true :=
  ⟨by decide, next_with (by decide)⟩
theorem test_witness_BulkInstructionsFrame_registers :
    (∃ t, exec (.restore 3 5 4) (startAt 0x400 [(4, 0x1000)]) = .next t ∧ t.pc = 0x400) ∧
    (∃ t, exec (.fromPtr 3 4) (startAt 0x400 [(4, 0x1000)]) = .next t ∧ t.pc = 0x400) ∧
    (∃ t, exec (.popb 3 4) (startAt 0x400 [(4, 0x1000)]) = .next t ∧ t.reg 4 = 0x1001) ∧
    ∃ t, exec (.push 3 4) (startAt 0x400 [(4, 0x1000)]) = .next t ∧ t.reg 4 = 0xFFC :=
  ⟨⟨_, rfl, by decide⟩, ⟨_, rfl, by decide⟩, ⟨_, rfl, by decide⟩, ⟨_, rfl, by decide⟩⟩
theorem test_witness_ThroughAndFrom :
    (paged sup [(4, 0x3000)]).locate ((paged sup [(4, 0x3000)]).reg 4) .read .word = .ok { phys := 0x3000, dirty := none } ∧
    0 = Memory.load (paged sup [(4, 0x3000)]).main 0x3000 .word ∧
    (paged sup [(4, 0x3000)]).locate 0 .read .word = .ok { phys := 0, dirty := none } ∧
    (paged sup [(4, 0x3000)]).locate 0 .write .word = .ok { phys := 0, dirty := none } ∧
    ¬ ChangesUsedEntry (paged sup [(4, 0x3000)])
      ((paged sup [(4, 0x3000)]).entriesOf ((paged sup [(4, 0x3000)]).reg 4) .word ++ (paged sup [(4, 0x3000)]).entriesOf 0 .word)
      { phys := 0, dirty := none } .word 7 := by unfold ChangesUsedEntry; decide
theorem test_witness_ThroughAndFrom_refused :
    Memory.load (mem (paged sup [(4, 0x3000)]) 0x3000 [0, 0, 0x80, 0x04]).main 0x3000 .word = 0x8004 ∧
    (mem (paged sup [(4, 0x3000)]) 0x3000 [0, 0, 0x80, 0x04]).locate 0x8004 .write .word =
      .ok { phys := 0x8004, dirty := none } ∧
    ChangesUsedEntry (mem (paged sup [(4, 0x3000)]) 0x3000 [0, 0, 0x80, 0x04])
      ((mem (paged sup [(4, 0x3000)]) 0x3000 [0, 0, 0x80, 0x04]).entriesOf 0x3000 .word ++
        (mem (paged sup [(4, 0x3000)]) 0x3000 [0, 0, 0x80, 0x04]).entriesOf 0x8004 .word)
      { phys := 0x8004, dirty := none } .word 7 := by unfold ChangesUsedEntry; decide
theorem test_witness_StatusRegister : (startAt 0x400 []).supervisor = true := by decide
theorem test_witness_SystemCall : (0x34 : BitVec 8) = ((startAt 0x400 [(5, 0x1234)]).reg 5).setWidth 8 ∧
    (startAt 0x400 []).mmuOn = false ∧ (startAt 0x400 []).ssp.toNat % 4 = 0 ∧ 8 ≤ (startAt 0x400 []).ssp.toNat ∧
    (startAt 0x400 []).ssp.toNat ≤ 2 ^ 24 := by decide
theorem test_witness_SystemReturn : (startAt 0x400 [(2, 0xFFFFF8)]).supervisor = true ∧
    (startAt 0x400 [(2, 0xFFFFF8)]).locate 0xFFFFF8 .read .word = .ok { phys := 0xFFFFF8, dirty := none } ∧
    (startAt 0x400 [(2, 0xFFFFF8)]).locate (0xFFFFF8 + 4) .read .word = .ok { phys := 0xFFFFFC, dirty := none } ∧
    (startAt 0x400 [(2, 0xFFFFFC)]).locate (0xFFFFFC + 4) .read .word = .error (.raise .busError) ∧
    (startAt 0x400 [(2, 2)]).locate 2 .read .word = .error (.raise .addressError) := by decide

end Sys2Proof.Tests
end

/-! PROOFS. Which words a row of the opcode map selects, and `lui` (O31). -/

section

namespace Sys2Proof

/-! The selecting bits of a word (spec/30_encoding.md R102, R110). -/

theorem and_selectMask (w : Word) : w &&& 0xFE000000#32 = w.extractLsb' 25 7 ++ 0#25 := by
  have hw : w.extractLsb' 25 7 ++ w.extractLsb' 0 25 = w :=
    (BitVec.extractLsb'_append_extractLsb'_eq_extractLsb' rfl).trans BitVec.extractLsb'_eq_self
  calc w &&& 0xFE000000#32
      = (w.extractLsb' 25 7 ++ w.extractLsb' 0 25) &&& (BitVec.allOnes 7 ++ 0#25) := by rw [hw]; rfl
    _ = (w.extractLsb' 25 7 &&& BitVec.allOnes 7) ++ (w.extractLsb' 0 25 &&& 0#25) := BitVec.and_append
    _ = w.extractLsb' 25 7 ++ 0#25 := by rw [BitVec.and_allOnes, BitVec.and_zero]

/-- The mask of a row without must-be-zero bits compares the selecting bits alone. -/
theorem and_selectMask_eq_iff (w : Word) (sel : BitVec 7) :
    w &&& 0xFE000000#32 = sel ++ 0#25 ↔ w.extractLsb' 25 7 = sel := by
  rw [and_selectMask, BitVec.append_left_inj]

theorem selectField_toNat (w : Word) :
    (w.extractLsb' 25 7).toNat = 16 * (groupField w).toNat + (opcodeField w).toNat := by
  simp only [groupField, opcodeField, BitVec.extractLsb'_toNat, Nat.shiftRight_eq_div_pow]
  omega

/-! The rows of each group hold instructions of that group, at their opcodes. -/

theorem entryT_selector {w : Word} {n : Nat} {e : Entry} (h : entryT w n = some e) :
    e.instr.selector.toNat = 16 * 0 + n := by
  unfold entryT at h; split at h <;> cases h <;> rfl

theorem entryM_selector {w : Word} {n : Nat} {e : Entry} (h : entryM w n = some e) :
    e.instr.selector.toNat = 16 * 1 + n := by
  unfold entryM at h; split at h <;> cases h <;> rfl

theorem entryUJ_selector {w : Word} {n : Nat} {e : Entry} (h : entryUJ w n = some e) :
    e.instr.selector.toNat = 16 * 2 + n := by
  unfold entryUJ at h; split at h <;> cases h <;> rfl

theorem entryB_selector {w : Word} {n : Nat} {e : Entry} (h : entryB w n = some e) :
    e.instr.selector.toNat = 16 * 3 + n := by
  unfold entryB at h; split at h <;> cases h <;> rfl

theorem entryL_selector {w : Word} {n : Nat} {e : Entry} (h : entryL w n = some e) :
    e.instr.selector.toNat = 16 * 4 + n := by
  unfold entryL at h
  split at h
  case h_10 =>
    split_ifs at h with hlw hlwd
    · cases h; rw [hlw]; rfl
    · cases h; rw [hlwd]; rfl
  all_goals cases h; rfl

theorem entryI_selector {w : Word} {n : Nat} {e : Entry} (h : entryI w n = some e) :
    e.instr.selector.toNat = 16 * 5 + n := by
  unfold entryI at h; split at h <;> cases h <;> rfl

theorem entryR_selector {w : Word} {n : Nat} {e : Entry} (h : entryR w n = some e) :
    e.instr.selector.toNat = 16 * 6 + n := by
  unfold entryR at h; split at h <;> cases h <;> rfl

theorem entryS_selector {w : Word} {n : Nat} {e : Entry} (h : entryS w n = some e) :
    e.instr.selector.toNat = 16 * 7 + n := by
  unfold entryS at h; split at h <;> cases h <;> rfl

/-- The row a word selects holds an instruction whose selecting bits are the word's. -/
theorem entryOf_selector {w : Word} {e : Entry} (h : entryOf w = some e) :
    w.extractLsb' 25 7 = e.instr.selector := by
  apply BitVec.eq_of_toNat_eq
  rw [selectField_toNat]
  unfold entryOf at h
  split at h <;> rename_i hgroup
  · rw [hgroup, entryT_selector h]
  · rw [hgroup, entryM_selector h]
  · rw [hgroup, entryUJ_selector h]
  · rw [hgroup, entryB_selector h]
  · rw [hgroup, entryL_selector h]
  · rw [hgroup, entryI_selector h]
  · rw [hgroup, entryR_selector h]
  · rw [hgroup, entryS_selector h]
  · cases h

/-! The decoder. -/

theorem decode_ok_iff {w : Word} {i : Instr} :
    decode w = .ok i ↔ ∃ e, entryOf w = some e ∧ w.extractLsb' e.zeroLow e.zeroWidth = 0 ∧ e.instr = i := by
  unfold decode
  cases entryOf w with
  | none => simp
  | some e => by_cases hz : w.extractLsb' e.zeroLow e.zeroWidth = 0#e.zeroWidth <;> simp [hz]

/-- A word that decodes carries the selecting bits of its instruction. -/
theorem selector_of_decode {w : Word} {i : Instr} (h : decode w = .ok i) : w.extractLsb' 25 7 = i.selector := by
  obtain ⟨e, he, -, rfl⟩ := decode_ok_iff.1 h
  exact entryOf_selector he

/-- A row without must-be-zero bits: if the words with its selecting bits select it, they are its words. -/
theorem encodedBy_selector {sel : BitVec 7} {f : Word → Instr} (hsel : ∀ w, (f w).selector = sel)
    (hrow : ∀ w, w.extractLsb' 25 7 = sel → entryOf w = some { instr := f w }) :
    Machine.EncodedBy 0xFE000000#32 (sel ++ 0#25) f := by
  intro w
  rw [and_selectMask_eq_iff]
  constructor
  · intro h
    exact decode_ok_iff.2 ⟨_, hrow w h, BitVec.of_length_zero, rfl⟩
  · intro h
    exact (selector_of_decode h).trans (hsel w)

theorem entryOf_lui {w : Word} (h : w.extractLsb' 25 7 = 0x21#7) :
    entryOf w = some { instr := .lui (fieldA w) (imm20 w) } := by
  have hsum : 16 * (groupField w).toNat + (opcodeField w).toNat = 33 := by rw [← selectField_toNat, h]; rfl
  have hopcode : (opcodeField w).toNat = 1 := by omega
  have hgroup : (groupField w).toNat = 2 := by omega
  simp only [entryOf, hgroup, hopcode, entryUJ]

end Sys2Proof

namespace Sys2Proof.Machine

/-! An instruction that writes one register. -/

/-- A register write changes that register alone. -/
theorem registerFrame_setReg (s : State) (rd : RegNum) (v : Word) : RegisterFrame s (s.setReg rd v) [rd] := by
  have hcontrol : SameControl s (s.setReg rd v) := by simp [SameControl]
  have hmain : SameMain s (s.setReg rd v) := by simp [SameMain]
  have hdata : SameData s (s.setReg rd v) := by simp [SameData]
  have hothers : ∀ i, i ∉ [rd] → (s.setReg rd v).reg i = s.reg i := by
    intro i hi
    rw [State.reg_setReg, if_neg fun h => hi (List.mem_singleton.2 h.1)]
  exact ⟨hcontrol, hmain, hdata, hothers, State.setReg_otherBank s rd v⟩

theorem State.reg_setReg_same (s : State) (rd : RegNum) (v : Word) :
    (s.setReg rd v).reg rd = if rd = 0#5 then 0#32 else v := by
  rw [State.reg_setReg]
  by_cases h : rd = 0#5 <;> simp [h]

/-- An instruction whose outcome is one register write writes that register and nothing else. -/
theorem writesReg_of_exec {i : Instr} {s : State} {rd : RegNum} {v : Word} (h : exec i s = .next (s.setReg rd v)) :
    WritesReg i s rd v :=
  ⟨_, h, s.reg_setReg_same rd v, s.setReg_pc rd v, registerFrame_setReg s rd v⟩

theorem upperImm_eq_shiftLeft (imm : BitVec 20) : upperImm imm = imm.setWidth 32 <<< 12 := by
  have happend : (upperImm imm).toNat = imm.toNat <<< 12 ||| 0 := BitVec.toNat_append imm 0#12
  have hbound := imm.isLt
  apply BitVec.eq_of_toNat_eq
  simp [happend, Nat.shiftLeft_eq]
  omega

theorem exec_lui (rd : RegNum) (imm : BitVec 20) (s : State) :
    exec (.lui rd imm) s = .next (s.setReg rd (imm.setWidth 32 <<< 12)) := by
  rw [← upperImm_eq_shiftLeft]
  rfl

/-- Settles O31: the row of `lui` has no must-be-zero bits, so its seven selecting bits alone name its words; its
outcome is one register write. -/
theorem loadUpperImmediate : Obligations.LoadUpperImmediate := by
  unfold Obligations.LoadUpperImmediate
  refine ⟨?words, ?known, ?result⟩
  case words => exact encodedBy_selector (sel := 0x21#7) (fun _ => rfl) (fun _ => entryOf_lui)
  case known => decide
  case result => exact fun s rd imm => writesReg_of_exec (exec_lui rd imm s)

end Sys2Proof.Machine

end

/-! PROOFS. Rows with must-be-zero bits, the rows of group 110, and the register arithmetic without a fault (O41). -/

section

namespace Sys2Proof

/-! The must-be-zero bits of a word (spec/30_encoding.md R108, R121). -/

/-- The mask of a row whose low `z` bits must be zero compares the seven selecting bits and those. -/
theorem and_rowMask_eq_iff {m z : Nat} (w : BitVec (7 + m + z)) (sel : BitVec 7) :
    w &&& (BitVec.allOnes 7 ++ 0#m ++ BitVec.allOnes z) = sel ++ 0#m ++ 0#z ↔
      w.extractLsb' (m + z) 7 = sel ∧ w.extractLsb' 0 z = 0#z := by
  have hw : w.extractLsb' (m + z) 7 ++ w.extractLsb' z m ++ w.extractLsb' 0 z = w := by
    rw [BitVec.extractLsb'_append_extractLsb'_eq_extractLsb' (by omega),
      BitVec.extractLsb'_append_extractLsb'_eq_extractLsb' (by omega), BitVec.extractLsb'_eq_self]
  have hand : w &&& (BitVec.allOnes 7 ++ 0#m ++ BitVec.allOnes z) =
      w.extractLsb' (m + z) 7 ++ 0#m ++ w.extractLsb' 0 z := by
    conv_lhs => rw [← hw]
    simp only [BitVec.and_append, BitVec.and_allOnes, BitVec.and_zero]
  rw [hand]
  constructor
  · intro h
    have hlow : w.extractLsb' 0 z = 0#z := by
      simpa only [BitVec.extractLsb'_append_eq_right] using congrArg (BitVec.extractLsb' 0 z) h
    rw [hlow, BitVec.append_left_inj, BitVec.append_left_inj] at h
    exact ⟨h, hlow⟩
  · rintro ⟨hsel, hlow⟩
    rw [hsel, hlow]

/-- A row with must-be-zero bits: if the words with its selecting bits select it, its words are those whose
must-be-zero bits are zero too. -/
theorem encodedBy_zeroLow {mask value : Word} {sel : BitVec 7} {z : Nat} {f : Word → Instr}
    (hmask : ∀ w, w &&& mask = value ↔ w.extractLsb' 25 7 = sel ∧ w.extractLsb' 0 z = 0#z)
    (hsel : ∀ w, (f w).selector = sel)
    (hrow : ∀ w, w.extractLsb' 25 7 = sel → entryOf w = some { instr := f w, zeroLow := 0, zeroWidth := z }) :
    Machine.EncodedBy mask value f := by
  intro w
  rw [hmask]
  constructor
  · rintro ⟨hw, hzero⟩
    exact decode_ok_iff.2 ⟨_, hrow w hw, hzero, rfl⟩
  · intro h
    have hw : w.extractLsb' 25 7 = sel := (selector_of_decode h).trans (hsel w)
    obtain ⟨e, he, hzero, -⟩ := decode_ok_iff.1 h
    obtain rfl := Option.some.inj (he.symm.trans (hrow w hw))
    exact ⟨hw, hzero⟩

/-! Group 110, the R instructions (spec/30_encoding.md R110). -/

theorem entryOf_groupR {w : Word} {opcode : BitVec 4} (h : w.extractLsb' 25 7 = 6#3 ++ opcode) :
    entryOf w = entryR w opcode.toNat := by
  have hselect : (6#3 ++ opcode).toNat = 96 + opcode.toNat := by
    rw [BitVec.toNat_append, ← Nat.shiftLeft_add_eq_or_of_lt opcode.isLt]; rfl
  have hsum := selectField_toNat w
  rw [h, hselect] at hsum
  have hfield := (opcodeField w).isLt
  have hgroup : (groupField w).toNat = 6 := by omega
  have hopcode : (opcodeField w).toNat = opcode.toNat := by omega
  simp only [entryOf, hgroup, hopcode]

/-- An R instruction with three register fields: its low 10 bits must be zero. -/
theorem encodedBy_groupR_threeRegisters {opcode : BitVec 4} {f : Word → Instr}
    (hsel : ∀ w, (f w).selector = 6#3 ++ opcode)
    (hrow : ∀ w, entryR w opcode.toNat = some { instr := f w, zeroLow := 0, zeroWidth := 10 }) :
    Machine.EncodedBy 0xFE0003FF#32 (6#3 ++ opcode ++ 0#15 ++ 0#10) f :=
  encodedBy_zeroLow (fun w => and_rowMask_eq_iff (m := 15) (z := 10) w (6#3 ++ opcode)) hsel
    fun w h => (entryOf_groupR h).trans (hrow w)

/-- An R instruction with two register fields: its low 15 bits must be zero. -/
theorem encodedBy_groupR_twoRegisters {opcode : BitVec 4} {f : Word → Instr}
    (hsel : ∀ w, (f w).selector = 6#3 ++ opcode)
    (hrow : ∀ w, entryR w opcode.toNat = some { instr := f w, zeroLow := 0, zeroWidth := 15 }) :
    Machine.EncodedBy 0xFE007FFF#32 (6#3 ++ opcode ++ 0#10 ++ 0#15) f :=
  encodedBy_zeroLow (fun w => and_rowMask_eq_iff (m := 10) (z := 15) w (6#3 ++ opcode)) hsel
    fun w h => (entryOf_groupR h).trans (hrow w)

/-! The difference of words, by exact integers. -/

theorem sub_eq_ofInt (a b : Word) : a - b = BitVec.ofInt 32 (a.toNat - b.toNat) := by
  rw [BitVec.sub_eq_add_neg, Int.sub_eq_add_neg, BitVec.ofInt_add, BitVec.ofInt_neg]
  simp only [BitVec.ofInt_natCast, BitVec.ofNat_toNat, BitVec.setWidth_eq]

end Sys2Proof

namespace Sys2Proof.Machine

/-! The outcomes of the six instructions (spec/45_r.md R211, R212, R215 to R218). -/

theorem exec_add (rd rs1 rs2 : RegNum) (s : State) :
    exec (.add rd rs1 rs2) s = .next (s.setReg rd (BitVec.ofNat 32 ((s.reg rs1).toNat + (s.reg rs2).toNat))) := by
  rw [← BitVec.add_def]
  rfl

theorem exec_sub (rd rs1 rs2 : RegNum) (s : State) :
    exec (.sub rd rs1 rs2) s = .next (s.setReg rd (BitVec.ofInt 32 ((s.reg rs1).toNat - (s.reg rs2).toNat))) := by
  rw [← sub_eq_ofInt]
  rfl

theorem exec_or (rd rs1 rs2 : RegNum) (s : State) :
    exec (.or rd rs1 rs2) s = .next (s.setReg rd (s.reg rs1 ||| s.reg rs2)) := rfl

theorem exec_and (rd rs1 rs2 : RegNum) (s : State) :
    exec (.and rd rs1 rs2) s = .next (s.setReg rd (s.reg rs1 &&& s.reg rs2)) := rfl

theorem exec_xor (rd rs1 rs2 : RegNum) (s : State) :
    exec (.xor rd rs1 rs2) s = .next (s.setReg rd (s.reg rs1 ^^^ s.reg rs2)) := rfl

theorem exec_not (rd rs1 : RegNum) (s : State) :
    exec (.not rd rs1) s = .next (s.setReg rd (~~~s.reg rs1)) := rfl

/-- Settles O41: the selecting bits and the must-be-zero bits of a row name its words; each outcome is one register
write, whose value is read off as an integer or bit by bit. -/
theorem registerArithmetic : Obligations.RegisterArithmetic := by
  unfold Obligations.RegisterArithmetic
  refine ⟨?addWords, ?subWords, ?orWords, ?andWords, ?xorWords, ?notWords, fun s rd rs1 rs2 => ⟨?sum, ?difference,
    s.reg rs1 ||| s.reg rs2, s.reg rs1 &&& s.reg rs2, s.reg rs1 ^^^ s.reg rs2, ~~~s.reg rs1, ?or, ?and, ?xor, ?not,
    fun k hk => ⟨?orBit, ?andBit, ?xorBit, ?notBit⟩⟩⟩
  case addWords => exact encodedBy_groupR_threeRegisters (opcode := 0x0#4) (fun _ => rfl) (fun _ => rfl)
  case subWords => exact encodedBy_groupR_threeRegisters (opcode := 0x1#4) (fun _ => rfl) (fun _ => rfl)
  case orWords => exact encodedBy_groupR_threeRegisters (opcode := 0x4#4) (fun _ => rfl) (fun _ => rfl)
  case andWords => exact encodedBy_groupR_threeRegisters (opcode := 0x5#4) (fun _ => rfl) (fun _ => rfl)
  case xorWords => exact encodedBy_groupR_threeRegisters (opcode := 0x6#4) (fun _ => rfl) (fun _ => rfl)
  case notWords => exact encodedBy_groupR_twoRegisters (opcode := 0x7#4) (fun _ => rfl) (fun _ => rfl)
  case sum => exact writesReg_of_exec (exec_add rd rs1 rs2 s)
  case difference => exact writesReg_of_exec (exec_sub rd rs1 rs2 s)
  case or => exact writesReg_of_exec (exec_or rd rs1 rs2 s)
  case and => exact writesReg_of_exec (exec_and rd rs1 rs2 s)
  case xor => exact writesReg_of_exec (exec_xor rd rs1 rs2 s)
  case not => exact writesReg_of_exec (exec_not rd rs1 s)
  case orBit => rw [BitVec.getLsbD_or, Bool.or_eq_true]
  case andBit => rw [BitVec.getLsbD_and, Bool.and_eq_true]
  case xorBit => rw [BitVec.getLsbD_xor, bne_iff_ne]
  case notBit => simp [hk]

end Sys2Proof.Machine

end

/-! PROOFS. The rows of group 001, instructions that write one register after another, and `exch` (O57). -/

section

namespace Sys2Proof

/-! Group 001, the M instructions (spec/30_encoding.md R110). -/

/-- The seven selecting bits of a word are its group, then its opcode (R102). -/
theorem groupField_opcodeField_of_select {w : Word} {group : BitVec 3} {opcode : BitVec 4}
    (h : w.extractLsb' 25 7 = group ++ opcode) : groupField w = group ∧ opcodeField w = opcode := by
  have happend : groupField w ++ opcodeField w = w.extractLsb' 25 7 :=
    BitVec.extractLsb'_append_extractLsb'_eq_extractLsb' rfl
  have hfields := happend.trans h
  constructor
  · simpa only [BitVec.extractLsb'_append_eq_left] using congrArg (BitVec.extractLsb' 4 3) hfields
  · simpa only [BitVec.extractLsb'_append_eq_right] using congrArg (BitVec.extractLsb' 0 4) hfields

theorem entryOf_groupM {w : Word} {opcode : BitVec 4} (h : w.extractLsb' 25 7 = 1#3 ++ opcode) :
    entryOf w = entryM w opcode.toNat := by
  obtain ⟨hgroup, hopcode⟩ := groupField_opcodeField_of_select h
  rw [entryOf, hgroup, hopcode]
  rfl

/-- An M instruction with two register fields: its low 15 bits must be zero. -/
theorem encodedBy_groupM_twoRegisters {opcode : BitVec 4} {f : Word → Instr}
    (hsel : ∀ w, (f w).selector = 1#3 ++ opcode)
    (hrow : ∀ w, entryM w opcode.toNat = some { instr := f w, zeroLow := 0, zeroWidth := 15 }) :
    Machine.EncodedBy 0xFE007FFF#32 (1#3 ++ opcode ++ 0#10 ++ 0#15) f :=
  encodedBy_zeroLow (fun w => and_rowMask_eq_iff (m := 10) (z := 15) w (1#3 ++ opcode)) hsel
    fun w h => (entryOf_groupM h).trans (hrow w)

end Sys2Proof

namespace Sys2Proof.Machine

/-! Two register changes, one after the other. -/

theorem SameControl.trans {s t u : State} (hst : SameControl s t) (htu : SameControl t u) : SameControl s u := by
  obtain ⟨hpsr, hfault, hhalted, hpending, hschedule, hregion, hdraws⟩ := hst
  obtain ⟨hpsr', hfault', hhalted', hpending', hschedule', hregion', hdraws'⟩ := htu
  exact ⟨hpsr'.trans hpsr, hfault'.trans hfault, hhalted'.trans hhalted, hpending'.trans hpending,
    hschedule'.trans hschedule, hregion'.trans hregion, hdraws'.trans hdraws⟩

theorem SameControl.supervisor {s t : State} (h : SameControl s t) : t.supervisor = s.supervisor := by
  obtain ⟨hpsr, -⟩ := h
  rw [State.supervisor, hpsr, State.supervisor]

/-- Changes made in the same mode leave the other mode's stack pointer together, and the registers neither lists. -/
theorem SameRegsBut.trans {s t u : State} {changed changed' : List RegNum} (hmode : t.supervisor = s.supervisor)
    (hst : SameRegsBut s t changed) (htu : SameRegsBut t u changed') : SameRegsBut s u (changed ++ changed') := by
  obtain ⟨hregs, hbank⟩ := hst
  obtain ⟨hregs', hbank'⟩ := htu
  rw [hmode] at hbank'
  constructor
  · intro i hi
    obtain ⟨hi, hi'⟩ := not_or.1 (mt List.mem_append.2 hi)
    exact (hregs' i hi').trans (hregs i hi)
  · cases hs : s.supervisor <;> rw [hs] at hbank hbank' <;> exact hbank'.trans hbank

theorem RegisterFrame.trans {s t u : State} {changed changed' : List RegNum} (hst : RegisterFrame s t changed)
    (htu : RegisterFrame t u changed') : RegisterFrame s u (changed ++ changed') := by
  obtain ⟨hcontrol, hmain, hdata, hregs⟩ := hst
  obtain ⟨hcontrol', hmain', hdata', hregs'⟩ := htu
  exact ⟨hcontrol.trans hcontrol', fun a => (hmain' a).trans (hmain a), fun a => (hdata' a).trans (hdata a),
    hregs.trans hcontrol.supervisor hregs'⟩

/-- Writing to a register the value it reads changes nothing. -/
@[simp] theorem State.setReg_reg (s : State) (i : RegNum) : s.setReg i (s.reg i) = s := by
  by_cases h0 : i = 0#5
  · rw [h0, State.setReg_zero]
  by_cases h2 : i = 2#5
  · rw [h2, State.reg_two, State.setReg_two]
    cases s.supervisor <;> rfl
  · rw [State.setReg_other s h0 h2, State.reg_other s h0 h2, Vector.set_getElem_self]

/-! The outcome of `exch` (spec/46_m.md R255). -/

/-- The state after an exchange of two registers. -/
def State.exchanged (s : State) (rs1 rs2 : RegNum) : State := (s.setReg rs1 (s.reg rs2)).setReg rs2 (s.reg rs1)

theorem exec_exch (rs1 rs2 : RegNum) (s : State) : exec (.exch rs1 rs2) s = .next (s.exchanged rs1 rs2) := rfl

theorem State.exchanged_pc (s : State) (rs1 rs2 : RegNum) : (s.exchanged rs1 rs2).pc = s.pc := by
  simp [State.exchanged]

theorem State.exchanged_self (s : State) (r : RegNum) : s.exchanged r r = s := by simp [State.exchanged]

/-- The second write leaves the first register, unless the two are the same one. -/
theorem State.exchanged_reg_left (s : State) (rs1 rs2 : RegNum) :
    (s.exchanged rs1 rs2).reg rs1 = if rs1 = 0#5 then 0#32 else s.reg rs2 := by
  by_cases h : rs1 = rs2
  · rw [h]
    exact State.reg_setReg_same _ rs2 (s.reg rs2)
  · rw [State.exchanged, State.reg_setReg, if_neg fun hsame => h hsame.1, State.reg_setReg_same]

theorem State.exchanged_reg_right (s : State) (rs1 rs2 : RegNum) :
    (s.exchanged rs1 rs2).reg rs2 = if rs2 = 0#5 then 0#32 else s.reg rs1 :=
  State.reg_setReg_same _ rs2 (s.reg rs1)

theorem registerFrame_exchanged (s : State) (rs1 rs2 : RegNum) : RegisterFrame s (s.exchanged rs1 rs2) [rs1, rs2] :=
  (registerFrame_setReg s rs1 (s.reg rs2)).trans (registerFrame_setReg _ rs2 (s.reg rs1))

/-- Settles O57: the selecting bits and the must-be-zero bits of the row name its words; the outcome is two register
writes, of values read before either. -/
theorem exchangeRegisters : Obligations.ExchangeRegisters := by
  unfold Obligations.ExchangeRegisters
  refine ⟨?words, ?known, fun s rs1 rs2 => ⟨s.exchanged rs1 rs2, exec_exch rs1 rs2 s, ?frame, ?pc, ?left, ?right, ?self⟩⟩
  case words => exact encodedBy_groupM_twoRegisters (opcode := 0xD#4) (fun _ => rfl) (fun _ => rfl)
  case known => decide
  case frame => exact registerFrame_exchanged s rs1 rs2
  case pc => exact s.exchanged_pc rs1 rs2
  case left => exact s.exchanged_reg_left rs1 rs2
  case right => exact s.exchanged_reg_right rs1 rs2
  case self =>
    rintro rfl
    exact s.exchanged_self rs1

end Sys2Proof.Machine

end

/-! PROOFS. The two divisions and Division by Zero (O24). -/

section

namespace Sys2Proof.Machine

/-! Signed 15-bit immediates (spec/30_encoding.md R105) fit a word. -/

theorem fitsImm15_iff (imm : Int) : fitsImm15 imm = true ↔ -16384 ≤ imm ∧ imm ≤ 16383 := by
  rw [fitsImm15, Bool.and_eq_true, decide_eq_true_iff, decide_eq_true_iff]

theorem immWord_toInt {imm : Int} (h : fitsImm15 imm = true) : (immWord imm).toInt = imm := by
  obtain ⟨hlow, hhigh⟩ := (fitsImm15_iff imm).1 h
  exact BitVec.toInt_ofInt_eq_self (by decide) (by omega) (by omega)

/-- The only immediate that narrows to the zero word is 0. -/
theorem immWord_eq_zero_iff {imm : Int} (h : fitsImm15 imm = true) : immWord imm = 0#32 ↔ imm = 0 := by
  rw [← BitVec.toInt_inj, immWord_toInt h, BitVec.toInt_zero]

/-! The outcomes of `idivi` and `idiv`: the divisor is checked before any register is written
(spec/60_exceptions.md R344). -/

/-- An operation guarded by a divisor faults exactly when the divisor is zero. -/
theorem State.finish_divisorCheck (s t : State) (b : Word) :
    s.finish (do divisorCheck b; .ok t) =
      .next (if b = 0#32 then s.trapEntry .fault Exc.divisionByZero.vector s.instrAddr else t) := by
  by_cases h : b = 0#32
  · rw [divisorCheck, if_pos h, if_pos h]
    rfl
  · rw [divisorCheck, if_neg h, if_neg h]
    rfl

/-- The state after a completed `idiv`: the quotient in `rd`, then the remainder in `rd2` (spec/45_r.md R213). -/
def State.divided (s : State) (rd rd2 rs1 rs2 : RegNum) : State :=
  (s.setReg rd (quotient (s.reg rs1) (s.reg rs2))).setReg rd2 (remainder (s.reg rs1) (s.reg rs2))

theorem exec_idivi (rd rs1 : RegNum) (imm : Int) (s : State) :
    exec (.idivi rd rs1 imm) s = .next (if immWord imm = 0#32
      then s.trapEntry .fault Exc.divisionByZero.vector s.instrAddr
      else s.setReg rd (quotient (s.reg rs1) (immWord imm))) :=
  s.finish_divisorCheck _ (immWord imm)

theorem exec_idiv (rd rd2 rs1 rs2 : RegNum) (s : State) :
    exec (.idiv rd rd2 rs1 rs2) s = .next (if s.reg rs2 = 0#32
      then s.trapEntry .fault Exc.divisionByZero.vector s.instrAddr
      else s.divided rd rd2 rs1 rs2) :=
  s.finish_divisorCheck _ (s.reg rs2)

theorem State.divided_pc (s : State) (rd rd2 rs1 rs2 : RegNum) : (s.divided rd rd2 rs1 rs2).pc = s.pc := by
  rw [State.divided, State.setReg_pc, State.setReg_pc]

theorem registerFrame_divided (s : State) (rd rd2 rs1 rs2 : RegNum) :
    RegisterFrame s (s.divided rd rd2 rs1 rs2) [rd, rd2] :=
  (registerFrame_setReg s rd _).trans (registerFrame_setReg _ rd2 _)

/-- Settles O24: the divisor check alone decides between the fault and the register writes, and it looks at the
divisor only; so no dividend, `INT_MIN` included, makes a division by a non-zero divisor fault. -/
theorem divisionByZero : Obligations.DivisionByZero := by
  unfold Obligations.DivisionByZero
  refine ⟨rfl, fun s rd rd2 rs1 rs2 imm himm => ⟨?immZero, ?immNonzero, ?regZero, ?regNonzero, ?frame⟩⟩
  case immZero =>
    intro hzero
    rw [exec_idivi, if_pos ((immWord_eq_zero_iff himm).2 hzero)]
    rfl
  case immNonzero =>
    intro hne
    rw [exec_idivi, if_neg (mt (immWord_eq_zero_iff himm).1 hne)]
    exact ⟨_, rfl, registerFrame_setReg s rd _, s.setReg_pc rd _⟩
  case regZero =>
    intro (hzero : s.reg rs2 = 0#32)
    rw [exec_idiv, if_pos hzero]
    rfl
  case regNonzero =>
    intro (hne : s.reg rs2 ≠ 0#32)
    rw [exec_idiv, if_neg hne]
    exact ⟨_, rfl, registerFrame_divided s rd rd2 rs1 rs2, s.divided_pc rd rd2 rs1 rs2⟩
  case frame =>
    intro v savePc
    obtain ⟨-, -, hregs, husp, -, -⟩ := s.trapEntry_frame .fault v savePc
    exact ⟨hregs, husp⟩

end Sys2Proof.Machine

end

/-! PROOFS. The fields of a formatted word, and that decoding and encoding are inverse (O1, O2). -/

section

namespace Sys2Proof

open BitVec

/-! Every format is ENCODING I with its last 20 bits cut up further (spec/30_encoding.md R101). -/

theorem formatII_eq_formatI (sel : BitVec 7) (a b : RegNum) (imm : BitVec 15) :
    formatII sel a b imm = formatI sel a (b ++ imm) := append_assoc

theorem formatIII_eq_formatII (sel : BitVec 7) (a b c : RegNum) :
    formatIII sel a b c = formatII sel a b (c ++ 0#10) := append_assoc

theorem formatIV_eq_formatII (sel : BitVec 7) (a b c d : RegNum) :
    formatIV sel a b c d = formatII sel a b (c ++ (d ++ 0#5)) := by
  unfold formatIV formatII
  rw [append_assoc, append_assoc]
  rfl

theorem formatV_eq_formatI (sel : BitVec 7) (a : RegNum) (vector : BitVec 8) :
    formatV sel a vector = formatI sel a (0#12 ++ vector) := append_assoc

/-! What the decoder reads from a formatted word (R102 to R107). -/

section Fields

variable (sel : BitVec 7) (a b c d : RegNum) (imm : BitVec 20) (low : BitVec 15) (vector : BitVec 8)

theorem extractLsb'_formatI {start len : Nat} (h : start + len ≤ 20) :
    (formatI sel a imm).extractLsb' start len = imm.extractLsb' start len :=
  extractLsb'_append_eq_of_add_le h

theorem extractLsb'_formatII {start len : Nat} (h : start + len ≤ 15) :
    (formatII sel a b low).extractLsb' start len = low.extractLsb' start len :=
  extractLsb'_append_eq_of_add_le h

@[simp] theorem fieldA_formatI : fieldA (formatI sel a imm) = a :=
  (extractLsb'_append_eq_of_le (by decide)).trans extractLsb'_append_eq_right

@[simp] theorem fieldA_formatII : fieldA (formatII sel a b low) = a := by
  rw [formatII_eq_formatI, fieldA_formatI]

@[simp] theorem fieldB_formatII : fieldB (formatII sel a b low) = b := by
  rw [formatII_eq_formatI, fieldB, extractLsb'_formatI _ _ _ (by decide), extractLsb'_append_eq_left]

@[simp] theorem fieldA_formatIII : fieldA (formatIII sel a b c) = a := by
  rw [formatIII_eq_formatII, fieldA_formatII]

@[simp] theorem fieldB_formatIII : fieldB (formatIII sel a b c) = b := by
  rw [formatIII_eq_formatII, fieldB_formatII]

@[simp] theorem fieldC_formatIII : fieldC (formatIII sel a b c) = c := by
  rw [formatIII_eq_formatII, fieldC, extractLsb'_formatII _ _ _ _ (by decide), extractLsb'_append_eq_left]

@[simp] theorem fieldA_formatIV : fieldA (formatIV sel a b c d) = a := by
  rw [formatIV_eq_formatII, fieldA_formatII]

@[simp] theorem fieldB_formatIV : fieldB (formatIV sel a b c d) = b := by
  rw [formatIV_eq_formatII, fieldB_formatII]

@[simp] theorem fieldC_formatIV : fieldC (formatIV sel a b c d) = c := by
  rw [formatIV_eq_formatII, fieldC, extractLsb'_formatII _ _ _ _ (by decide), extractLsb'_append_eq_left]

@[simp] theorem fieldD_formatIV : fieldD (formatIV sel a b c d) = d := by
  rw [formatIV_eq_formatII, fieldD, extractLsb'_formatII _ _ _ _ (by decide),
    extractLsb'_append_eq_of_add_le (by decide), extractLsb'_append_eq_left]

@[simp] theorem fieldA_formatV : fieldA (formatV sel a vector) = a := by
  rw [formatV_eq_formatI, fieldA_formatI]

@[simp] theorem vectorField_formatV : vectorField (formatV sel a vector) = vector := by
  rw [formatV_eq_formatI, vectorField, extractLsb'_formatI _ _ _ (by decide), extractLsb'_append_eq_right]

@[simp] theorem imm20_formatI : imm20 (formatI sel a imm) = imm := extractLsb'_append_eq_right

/-! The must-be-zero bits of a formatted word (R108, R121). -/

@[simp] theorem zeroBits_formatII : (formatII sel a b 0#15).extractLsb' 0 15 = 0#15 := extractLsb'_append_eq_right

@[simp] theorem zeroBits_formatIII : (formatIII sel a b c).extractLsb' 0 10 = 0#10 := extractLsb'_append_eq_right

@[simp] theorem zeroBits_formatIII_zero : (formatIII sel a b 0#5).extractLsb' 0 15 = 0#15 := by
  rw [formatIII_eq_formatII]
  exact zeroBits_formatII sel a b

@[simp] theorem zeroBits_formatIV : (formatIV sel a b c d).extractLsb' 0 5 = 0#5 := extractLsb'_append_eq_right

@[simp] theorem zeroBits_formatV : (formatV sel a vector).extractLsb' 8 12 = 0#12 := by
  rw [formatV_eq_formatI, extractLsb'_formatI _ _ _ (by decide), extractLsb'_append_eq_left]

@[simp] theorem zeroBits_formatV_zero : (formatV sel a 0#8).extractLsb' 0 20 = 0#20 := by
  rw [formatV_eq_formatI, extractLsb'_formatI _ _ _ (by decide)]
  decide

@[simp] theorem zeroBits_formatV_zero_zero : (formatV sel 0#5 0#8).extractLsb' 0 25 = 0#25 := by
  rw [formatV_eq_formatI, formatI, append_assoc]
  exact extractLsb'_append_eq_right

end Fields

/-! A signed operand that fits its field survives the encoding (R105, R106). -/

theorem fitsJump15_iff (off : Int) : fitsJump15 off = true ↔ off % 4 = 0 ∧ -65536 ≤ off ∧ off ≤ 65532 := by
  rw [fitsJump15, Bool.and_eq_true, Bool.and_eq_true, decide_eq_true_iff, decide_eq_true_iff, decide_eq_true_iff]
  tauto

theorem fitsJump20_iff (off : Int) : fitsJump20 off = true ↔ off % 4 = 0 ∧ -2097152 ≤ off ∧ off ≤ 2097148 := by
  rw [fitsJump20, Bool.and_eq_true, Bool.and_eq_true, decide_eq_true_iff, decide_eq_true_iff, decide_eq_true_iff]
  tauto

section Offsets

variable (sel : BitVec 7) (a b : RegNum) {off : Int}

@[simp] theorem imm15_formatII (h : fitsImm15 off = true) :
    imm15 (formatII sel a b (BitVec.ofInt 15 off)) = off := by
  obtain ⟨hlow, hhigh⟩ := (Machine.fitsImm15_iff off).1 h
  have hfield : imm15 (formatII sel a b (BitVec.ofInt 15 off)) = (BitVec.ofInt 15 off).toInt :=
    congrArg BitVec.toInt extractLsb'_append_eq_right
  rw [hfield, BitVec.toInt_ofInt_eq_self (by decide) (by omega) (by omega)]

@[simp] theorem jump15_formatII (h : fitsJump15 off = true) :
    jump15 (formatII sel a b (BitVec.ofInt 15 (off / 4))) = off := by
  obtain ⟨hmod, hlow, hhigh⟩ := (fitsJump15_iff off).1 h
  have hfield : jump15 (formatII sel a b (BitVec.ofInt 15 (off / 4))) = 4 * (BitVec.ofInt 15 (off / 4)).toInt :=
    congrArg (4 * BitVec.toInt ·) extractLsb'_append_eq_right
  rw [hfield, BitVec.toInt_ofInt_eq_self (by decide) (by omega) (by omega)]
  omega

@[simp] theorem jump20_formatI (h : fitsJump20 off = true) :
    jump20 (formatI sel a (BitVec.ofInt 20 (off / 4))) = off := by
  obtain ⟨hmod, hlow, hhigh⟩ := (fitsJump20_iff off).1 h
  have hfield : jump20 (formatI sel a (BitVec.ofInt 20 (off / 4))) = 4 * (BitVec.ofInt 20 (off / 4)).toInt :=
    congrArg (4 * BitVec.toInt ·) extractLsb'_append_eq_right
  rw [hfield, BitVec.toInt_ofInt_eq_self (by decide) (by omega) (by omega)]
  omega

end Offsets

/-! Decoding after encoding. -/

/-- The selecting bits are the group, then the opcode (R102). -/
theorem group_append_opcode (sel : BitVec 7) : sel = sel.extractLsb' 4 3 ++ sel.extractLsb' 0 4 := by
  have hparts : sel.extractLsb' 4 3 ++ sel.extractLsb' 0 4 = sel :=
    (extractLsb'_append_extractLsb'_eq_extractLsb' rfl).trans extractLsb'_eq_self
  exact hparts.symm

/-- The encoder puts an instruction's selecting bits where the decoder looks for them. -/
theorem select_encode (i : Instr) : (encode i).extractLsb' 25 7 = i.selector := by
  cases i <;> simp only [encode, Laws.select_formatI, Laws.select_formatII, Laws.select_formatIII,
    Laws.select_formatIV, Laws.select_formatV]

theorem groupField_encode (i : Instr) : groupField (encode i) = i.selector.extractLsb' 4 3 :=
  (groupField_opcodeField_of_select ((select_encode i).trans (group_append_opcode i.selector))).1

theorem opcodeField_encode (i : Instr) : opcodeField (encode i) = i.selector.extractLsb' 0 4 :=
  (groupField_opcodeField_of_select ((select_encode i).trans (group_append_opcode i.selector))).2

/-- The word of a well-formed instruction selects a row that holds the instruction itself, its must-be-zero bits being
zero; group by group. -/
theorem entryOf_encode {i : Instr} (h : i.wf = true) :
    ∃ e, entryOf (encode i) = some e ∧ (encode i).extractLsb' e.zeroLow e.zeroWidth = 0 ∧ e.instr = i := by
  rw [entryOf, groupField_encode, opcodeField_encode]
  cases i <;> rw [Instr.wf] at h
  case syscall | gsreg | ssreg | sysret => simp [Instr.selector, entryT, encode]
  case copy | swap | fill | through | fromPtr | popb | poph | pop | pushb | pushh | push | save | restore | exch =>
    simp [Instr.selector, entryM, encode]
  case jal | lui | auipc => simp [Instr.selector, entryUJ, encode, h]
  case beq | bne | blt | bge | bltu | bgeu => simp [Instr.selector, entryB, encode, h]
  case jalr | lb | lbu | lbd | lbud | lh | lhu | lhd | lhud | lw | lwd =>
    simp [Instr.selector, entryL, opcLw, opcLwd, encode, h]
  case muli | mulih | idivi | addi | subi | ori | andi | xori | shira | shirl | shill =>
    simp [Instr.selector, entryI, encode, h]
  case add | sub | idiv | mul | or | and | xor | not | ctz | clz | popcount | shra | shrl | shll | ror | rol =>
    simp [Instr.selector, entryR, encode]
  case sb | sbd | sh | shd | sw | swd => simp [Instr.selector, entryS, encode, h]

/-- Settles O1: the word of a well-formed instruction selects the row that holds it. -/
theorem decodeOfEncode : Obligations.DecodeOfEncode := by
  unfold Obligations.DecodeOfEncode
  exact fun i h => decode_ok_iff.2 (entryOf_encode h)

/-! Encoding after decoding: a word is its fields put together again. -/

section Rebuild

variable {w : Word} {sel : BitVec 7} (hsel : w.extractLsb' 25 7 = sel)
include hsel

theorem formatI_fields : formatI sel (fieldA w) (imm20 w) = w := by
  have htop : w.extractLsb' 25 7 ++ fieldA w = w.extractLsb' 20 12 := extractLsb'_append_extractLsb'_eq_extractLsb' rfl
  rw [← hsel, formatI, htop]
  exact (extractLsb'_append_extractLsb'_eq_extractLsb' rfl).trans extractLsb'_eq_self

theorem formatII_fields : formatII sel (fieldA w) (fieldB w) (w.extractLsb' 0 15) = w := by
  have happend : fieldB w ++ w.extractLsb' 0 15 = imm20 w := extractLsb'_append_extractLsb'_eq_extractLsb' rfl
  rw [formatII_eq_formatI, happend, formatI_fields hsel]

theorem formatII_fields_zero (hzero : w.extractLsb' 0 15 = 0#15) : formatII sel (fieldA w) (fieldB w) 0#15 = w := by
  rw [← hzero, formatII_fields hsel]

theorem formatIII_fields (hzero : w.extractLsb' 0 10 = 0#10) :
    formatIII sel (fieldA w) (fieldB w) (fieldC w) = w := by
  have happend : fieldC w ++ w.extractLsb' 0 10 = w.extractLsb' 0 15 :=
    extractLsb'_append_extractLsb'_eq_extractLsb' rfl
  rw [formatIII_eq_formatII, ← hzero, happend, formatII_fields hsel]

theorem formatIII_fields_zero (hzero : w.extractLsb' 0 15 = 0#15) :
    formatIII sel (fieldA w) (fieldB w) 0#5 = w := by
  rw [formatIII_eq_formatII]
  exact formatII_fields_zero hsel hzero

theorem formatIV_fields (hzero : w.extractLsb' 0 5 = 0#5) :
    formatIV sel (fieldA w) (fieldB w) (fieldC w) (fieldD w) = w := by
  have hlow : fieldD w ++ w.extractLsb' 0 5 = w.extractLsb' 0 10 := extractLsb'_append_extractLsb'_eq_extractLsb' rfl
  have happend : fieldC w ++ w.extractLsb' 0 10 = w.extractLsb' 0 15 :=
    extractLsb'_append_extractLsb'_eq_extractLsb' rfl
  rw [formatIV_eq_formatII, ← hzero, hlow, happend, formatII_fields hsel]

theorem formatV_fields (hzero : w.extractLsb' 8 12 = 0#12) : formatV sel (fieldA w) (vectorField w) = w := by
  have happend : w.extractLsb' 8 12 ++ vectorField w = imm20 w := extractLsb'_append_extractLsb'_eq_extractLsb' rfl
  rw [formatV_eq_formatI, ← hzero, happend, formatI_fields hsel]

theorem formatV_fields_zero (hzero : w.extractLsb' 0 20 = 0#20) : formatV sel (fieldA w) 0#8 = w := by
  have happend : (0#12 ++ 0#8 : BitVec 20) = imm20 w := hzero.symm
  rw [formatV_eq_formatI, happend, formatI_fields hsel]

theorem formatV_zero (hzero : w.extractLsb' 0 25 = 0#25) : formatV sel 0#5 0#8 = w := by
  have hw : sel ++ 0#25 = w := by
    rw [← hsel, ← hzero]
    exact (extractLsb'_append_extractLsb'_eq_extractLsb' rfl).trans extractLsb'_eq_self
  rw [← hw, formatV_eq_formatI, formatI, append_assoc]
  rfl

end Rebuild

@[simp] theorem ofInt_imm15 (w : Word) : BitVec.ofInt 15 (imm15 w) = w.extractLsb' 0 15 := BitVec.ofInt_toInt

@[simp] theorem ofInt_jump15 (w : Word) : BitVec.ofInt 15 (jump15 w / 4) = w.extractLsb' 0 15 := by
  rw [jump15, Int.mul_ediv_cancel_left _ (by decide), BitVec.ofInt_toInt]

@[simp] theorem ofInt_jump20 (w : Word) : BitVec.ofInt 20 (jump20 w / 4) = imm20 w := by
  rw [jump20, Int.mul_ediv_cancel_left _ (by decide), BitVec.ofInt_toInt, imm20]

/-- A decoded signed operand fits its field (R105, R106). -/
@[simp] theorem fitsImm15_imm15 (w : Word) : fitsImm15 (imm15 w) = true := by
  have hlow := BitVec.le_two_mul_toInt (x := w.extractLsb' 0 15)
  have hhigh := BitVec.two_mul_toInt_lt (x := w.extractLsb' 0 15)
  rw [Machine.fitsImm15_iff, imm15]
  omega

@[simp] theorem fitsJump15_jump15 (w : Word) : fitsJump15 (jump15 w) = true := by
  have hlow := BitVec.le_two_mul_toInt (x := w.extractLsb' 0 15)
  have hhigh := BitVec.two_mul_toInt_lt (x := w.extractLsb' 0 15)
  rw [fitsJump15_iff, jump15]
  omega

@[simp] theorem fitsJump20_jump20 (w : Word) : fitsJump20 (jump20 w) = true := by
  have hlow := BitVec.le_two_mul_toInt (x := w.extractLsb' 0 20)
  have hhigh := BitVec.two_mul_toInt_lt (x := w.extractLsb' 0 20)
  rw [fitsJump20_iff, jump20]
  omega

section Rows

variable {w : Word} {n : Nat} {e : Entry} (hsel : w.extractLsb' 25 7 = e.instr.selector)
  (hzero : w.extractLsb' e.zeroLow e.zeroWidth = 0)
include hsel hzero

theorem entryT_encode (h : entryT w n = some e) : encode e.instr = w ∧ e.instr.wf = true := by
  unfold entryT at h
  split at h <;> cases h <;> refine ⟨?_, rfl⟩
  · exact formatV_fields hsel hzero
  · exact formatV_fields_zero hsel hzero
  · exact formatV_fields_zero hsel hzero
  · exact formatV_zero hsel hzero

theorem entryM_encode (h : entryM w n = some e) : encode e.instr = w ∧ e.instr.wf = true := by
  unfold entryM at h
  split at h <;> cases h <;> refine ⟨?_, rfl⟩
  case h_1 | h_2 | h_3 | h_12 | h_13 => exact formatIII_fields hsel hzero
  all_goals exact formatII_fields_zero hsel hzero

omit hzero in
theorem entryUJ_encode (h : entryUJ w n = some e) : encode e.instr = w ∧ e.instr.wf = true := by
  unfold entryUJ at h
  split at h <;> cases h <;> simp [encode, Instr.wf, formatI_fields hsel]

omit hzero in
theorem entryB_encode (h : entryB w n = some e) : encode e.instr = w ∧ e.instr.wf = true := by
  unfold entryB at h
  split at h <;> cases h <;> simp [encode, Instr.wf, formatII_fields hsel]

omit hzero in
theorem entryL_encode (h : entryL w n = some e) : encode e.instr = w ∧ e.instr.wf = true := by
  unfold entryL at h
  split at h
  case h_10 => split_ifs at h <;> cases h <;> simp [encode, Instr.wf, formatII_fields hsel]
  all_goals cases h; simp [encode, Instr.wf, formatII_fields hsel]

omit hzero in
theorem entryI_encode (h : entryI w n = some e) : encode e.instr = w ∧ e.instr.wf = true := by
  unfold entryI at h
  split at h <;> cases h <;> simp [encode, Instr.wf, formatII_fields hsel]

theorem entryR_encode (h : entryR w n = some e) : encode e.instr = w ∧ e.instr.wf = true := by
  unfold entryR at h
  split at h <;> cases h <;> refine ⟨?_, rfl⟩
  case h_3 | h_4 => exact formatIV_fields hsel hzero
  case h_8 | h_9 | h_10 | h_11 => exact formatIII_fields_zero hsel hzero
  all_goals exact formatIII_fields hsel hzero

omit hzero in
theorem entryS_encode (h : entryS w n = some e) : encode e.instr = w ∧ e.instr.wf = true := by
  unfold entryS at h
  split at h <;> cases h <;> simp [encode, Instr.wf, formatII_fields hsel]

end Rows

/-- A word whose must-be-zero bits are zero is the word of the instruction in the row it selects. -/
theorem encode_of_entryOf {w : Word} {e : Entry} (h : entryOf w = some e)
    (hzero : w.extractLsb' e.zeroLow e.zeroWidth = 0) : encode e.instr = w ∧ e.instr.wf = true := by
  have hsel := entryOf_selector h
  unfold entryOf at h
  split at h
  · exact entryT_encode hsel hzero h
  · exact entryM_encode hsel hzero h
  · exact entryUJ_encode hsel h
  · exact entryB_encode hsel h
  · exact entryL_encode hsel h
  · exact entryI_encode hsel h
  · exact entryR_encode hsel hzero h
  · exact entryS_encode hsel h
  · cases h

/-- Settles O2: a word that decodes selects a row by all its fields, so the encoder puts it together again. -/
theorem encodeOfDecode : Obligations.EncodeOfDecode := by
  unfold Obligations.EncodeOfDecode
  intro w i h
  obtain ⟨e, he, hzero, rfl⟩ := decode_ok_iff.1 h
  exact encode_of_entryOf he hzero

end Sys2Proof

end

/-! PROOFS. Which rows of the opcode table select a word, the undefined pairs, and the known words (O3, O4, O5). -/

section

namespace Sys2Proof

open Machine

/-! The bits of a word below its selecting bits play no part in which row it selects. -/

/-- The must-be-zero bits that the row of a word names, if there is a row. -/
def zeroField (w : Word) : Option (Nat × Nat) := (entryOf w).map (fun e => (e.zeroLow, e.zeroWidth))

theorem zeroField_eq_none {w : Word} : zeroField w = none ↔ entryOf w = none := Option.map_eq_none_iff

/-- The first word of those with the given selecting bits. -/
def firstWord (sel : BitVec 7) : Word := sel ++ 0#25

theorem zeroField_entryL_congr (w w' : Word) (n : Nat) :
    (entryL w n).map (fun e => (e.zeroLow, e.zeroWidth)) = (entryL w' n).map (fun e => (e.zeroLow, e.zeroWidth)) := by
  unfold entryL
  split
  case h_10 => split_ifs <;> rfl
  all_goals rfl

theorem zeroField_congr {w w' : Word} (h : w.extractLsb' 25 7 = w'.extractLsb' 25 7) : zeroField w = zeroField w' := by
  obtain ⟨hgroup, hopcode⟩ := groupField_opcodeField_of_select (h.trans (group_append_opcode _))
  obtain ⟨hgroup', hopcode'⟩ := groupField_opcodeField_of_select (group_append_opcode (w'.extractLsb' 25 7))
  rw [zeroField, zeroField, entryOf, entryOf, hgroup, hopcode, hgroup', hopcode']
  split
  · unfold entryT; split <;> rfl
  · unfold entryM; split <;> rfl
  · unfold entryUJ; split <;> rfl
  · unfold entryB; split <;> rfl
  · exact zeroField_entryL_congr w w' _
  · unfold entryI; split <;> rfl
  · unfold entryR; split <;> rfl
  · unfold entryS; split <;> rfl
  · rfl

theorem select_firstWord (sel : BitVec 7) : (firstWord sel).extractLsb' 25 7 = sel := BitVec.extractLsb'_append_eq_left

theorem zeroField_eq_firstWord (w : Word) : zeroField w = zeroField (firstWord (w.extractLsb' 25 7)) :=
  zeroField_congr (select_firstWord _).symm

theorem decode_undefinedPair_iff {w : Word} : decode w = .error .undefinedPair ↔ entryOf w = none := by
  unfold decode
  cases entryOf w with
  | none => simp
  | some e => by_cases hz : w.extractLsb' e.zeroLow e.zeroWidth = 0#e.zeroWidth <;> simp [hz]

/-- Settles O4: whether a word has a row depends on its group and opcode alone, and of those there are 128. -/
theorem undefinedPairs : Obligations.UndefinedPairs := by
  unfold Obligations.UndefinedPairs
  intro w
  have hpairs : ∀ (g : BitVec 3) (o : BitVec 4), zeroField (firstWord (g ++ o)) = none ↔
      (g = 0 ∧ o ∈ [0x0, 0x1, 0x5] ∨ g = 0 ∧ 0x7 ≤ o) ∨ (g = 1 ∧ 0xe ≤ o) ∨ (g = 2 ∧ 0x3 ≤ o) ∨
        (g = 3 ∧ 0x6 ≤ o) ∨ (g = 4 ∧ o = 0x0 ∨ g = 4 ∧ 0xc ≤ o) ∨ (g = 5 ∧ 0xb ≤ o) ∨ (g = 7 ∧ 0x6 ≤ o) := by
    decide
  have hselect : groupField w ++ opcodeField w = w.extractLsb' 25 7 :=
    BitVec.extractLsb'_append_extractLsb'_eq_extractLsb' rfl
  rw [decode_undefinedPair_iff, ← zeroField_eq_none, zeroField_eq_firstWord, ← hselect]
  exact hpairs (groupField w) (opcodeField w)

/-! The rows of the opcode table. -/

/-- The mask of a row: the selecting bits and the must-be-zero bits. -/
def rowMask (zeros : Nat × Nat) : Word := 0xFE000000#32 ||| (BitVec.allOnes zeros.2).setWidth 32 <<< zeros.1

theorem getLsbD_rowMask (low width i : Nat) : (rowMask (low, width)).getLsbD i =
    (decide (i < 32) && (decide (25 ≤ i) || decide (low ≤ i) && decide (i < low + width))) := by
  have hselect : (0xFE000000#32 : Word).getLsbD i = (decide (i < 32) && decide (25 ≤ i)) := by
    have hbits : (0xFE000000#32 : Word) = BitVec.allOnes 7 ++ 0#25 := rfl
    rw [hbits, BitVec.getLsbD_append, BitVec.getLsbD_allOnes]
    by_cases h : i < 25
    · simp [h]
    · have hwidth : i - 25 < 7 ↔ i < 32 := by omega
      simp only [h, if_false, hwidth, Nat.le_of_not_lt h, decide_true, Bool.and_true]
  rw [rowMask, BitVec.getLsbD_or, hselect]
  simp only [BitVec.getLsbD_shiftLeft, BitVec.getLsbD_setWidth, BitVec.getLsbD_allOnes]
  grind

theorem getLsbD_firstWord (sel : BitVec 7) (i : Nat) :
    (firstWord sel).getLsbD i = (decide (25 ≤ i) && sel.getLsbD (i - 25)) := by
  rw [firstWord, BitVec.getLsbD_append]
  by_cases h : i < 25 <;> simp [h]
  omega

/-- A row selects the words that have its selecting bits and zeros where they must be (R121). -/
theorem and_rowMask_eq_firstWord_iff {w : Word} {sel : BitVec 7} {low width : Nat} (h : low + width ≤ 25) :
    w &&& rowMask (low, width) = firstWord sel ↔ w.extractLsb' 25 7 = sel ∧ w.extractLsb' low width = 0 := by
  have hbits : ∀ i, i < 32 → (w &&& rowMask (low, width)).getLsbD i =
      (w.getLsbD i && (decide (25 ≤ i) || decide (low ≤ i) && decide (i < low + width))) := by
    intro i hi
    simp only [BitVec.getLsbD_and, getLsbD_rowMask, hi, decide_true, Bool.true_and]
  constructor
  · intro hw
    rw [hw] at hbits
    constructor <;> apply BitVec.eq_of_getLsbD_eq <;> intro i hi
    · have hbit := hbits (25 + i) (by omega)
      simpa [getLsbD_firstWord, hi] using hbit.symm
    · have hbit := hbits (low + i) (by omega)
      have hlow : ¬ 25 ≤ low + i := by omega
      simpa [getLsbD_firstWord, hi, hlow] using hbit.symm
  · rintro ⟨hsel, hzero⟩
    apply BitVec.eq_of_getLsbD_eq
    intro i hi
    rw [hbits i hi, getLsbD_firstWord, ← hsel]
    have hzeroBit : low ≤ i → i < low + width → w.getLsbD i = false := by
      intro hlow hhigh
      have hbit := congrArg (·.getLsbD (i - low)) hzero
      simpa [BitVec.getLsbD_extractLsb', show i - low < width by omega, show low + (i - low) = i by omega] using hbit
    by_cases hselect : 25 ≤ i
    · simp [hselect, show i - 25 < 7 by omega, show 25 + (i - 25) = i by omega]
    · by_cases hlow : low ≤ i ∧ i < low + width
      · simp [hselect, hlow, hzeroBit hlow.1 hlow.2]
      · simp [hselect]
        grind

theorem decode_ok_iff_zeroField {w : Word} :
    (∃ i, decode w = .ok i) ↔ ∃ z, zeroField w = some z ∧ w.extractLsb' z.1 z.2 = 0 := by
  constructor
  · rintro ⟨i, hi⟩
    obtain ⟨e, he, hzero, -⟩ := decode_ok_iff.1 hi
    exact ⟨(e.zeroLow, e.zeroWidth), by rw [zeroField, he]; rfl, hzero⟩
  · rintro ⟨z, hz, hzero⟩
    obtain ⟨e, he, rfl⟩ := Option.map_eq_some_iff.1 hz
    exact ⟨e.instr, decode_ok_iff.2 ⟨e, he, hzero, rfl⟩⟩

/-- Each pair of group and opcode with a meaning has its row in the table. -/
theorem row_mem_opcodeTable : ∀ sel : BitVec 7, ∀ z ∈ zeroField (firstWord sel),
    z.1 + z.2 ≤ 25 ∧ (firstWord sel, rowMask z) ∈ opcodeTable := by
  decide

/-- Each row of the table is that of a pair with a meaning. -/
theorem opcodeTable_row : ∀ r ∈ opcodeTable,
    r.1 = firstWord (r.1.extractLsb' 25 7) ∧ (zeroField r.1).map rowMask = some r.2 := by
  have hall : opcodeTable.all (fun r =>
      r.1 = firstWord (r.1.extractLsb' 25 7) && (zeroField r.1).map rowMask = some r.2) = true := by decide
  simpa only [List.all_eq_true, Bool.and_eq_true, decide_eq_true_iff] using hall

/-- No two rows of the table have the same selecting bits. -/
theorem opcodeTable_select_nodup : opcodeTable.Pairwise (fun q r => q.1.extractLsb' 25 7 ≠ r.1.extractLsb' 25 7) := by
  decide

theorem select_of_row {w : Word} {r : Word × Word} (hr : r ∈ opcodeTable) (hw : w &&& r.2 = r.1) :
    w.extractLsb' 25 7 = r.1.extractLsb' 25 7 ∧ ∃ z, zeroField w = some z ∧ w.extractLsb' z.1 z.2 = 0 := by
  obtain ⟨hfirst, hmask⟩ := opcodeTable_row r hr
  obtain ⟨z, hz, hrow⟩ := Option.map_eq_some_iff.1 hmask
  rw [hfirst] at hz
  obtain ⟨hbound, -⟩ := row_mem_opcodeTable _ z hz
  rw [← hrow, hfirst] at hw
  obtain ⟨hsel, hzero⟩ := (and_rowMask_eq_firstWord_iff hbound).1 hw
  refine ⟨hsel, z, ?_, hzero⟩
  rw [zeroField_eq_firstWord, hsel, hz]

/-- Settles O3: the rows of the table are the pairs of group and opcode with a meaning, each with its must-be-zero
bits. -/
theorem opcodeTableSelects : Obligations.OpcodeTableSelects := by
  unfold Obligations.OpcodeTableSelects
  refine ⟨fun w => decode_ok_iff_zeroField.trans ⟨?listed, ?rows⟩, ?select, ?disjoint⟩
  case listed =>
    rintro ⟨z, hz, hzero⟩
    rw [zeroField_eq_firstWord] at hz
    obtain ⟨hbound, hmem⟩ := row_mem_opcodeTable _ z hz
    exact ⟨_, hmem, (and_rowMask_eq_firstWord_iff hbound).2 ⟨rfl, hzero⟩⟩
  case rows =>
    rintro ⟨r, hr, hw⟩
    exact (select_of_row hr hw).2
  case select =>
    intro w i hi r hr hw
    rw [← (select_of_row hr hw).1, selector_of_decode hi]
  case disjoint =>
    refine opcodeTable_select_nodup.imp_of_mem fun {q r} hq hr hne w hboth => hne ?_
    rw [← (select_of_row hq hboth.1).1, ← (select_of_row hr hboth.2).1]

/-- Settles O5: the decoder evaluates on each of the words. -/
theorem knownWords : Obligations.KnownWords := by
  unfold Obligations.KnownWords
  refine ⟨by decide, by decide, by decide, by decide, by decide, by decide, by decide, by decide, by decide, by decide,
    by decide, by decide, by decide, fun w hw => ?_⟩
  have hrefused : decode w = .error .nonZeroField := by
    simp only [List.mem_cons, List.not_mem_nil, or_false] at hw
    rcases hw with rfl | rfl | rfl <;> decide
  exact ⟨hrefused, fun s => by rw [State.runWord, hrefused]⟩

end Sys2Proof

end

/-! PROOFS. What an instruction and a step can do, and what every one of them keeps (O10, O13 to O17). -/

section

namespace Sys2Proof.Machine

/-! An instruction that changes main memory alone. -/

/-- Main memory alone differs, and is canonical if it was. -/
structure MainChange (s t : State) : Prop where
  frame : t = { s with main := t.main }
  wf : Memory.wf Config.memSize s.main = true → Memory.wf Config.memSize t.main = true

theorem MainChange.refl (s : State) : MainChange s s := ⟨rfl, id⟩

theorem MainChange.trans {s t u : State} (hst : MainChange s t) (htu : MainChange t u) : MainChange s u := by
  refine ⟨?_, fun h => htu.wf (hst.wf h)⟩
  rw [htu.frame, hst.frame]

theorem MainChange.of_memWriteWatching {s t : State} {watched : List Nat} {va : Word} {size : Size} {v : Word}
    (h : s.memWriteWatching watched va size v = .ok t) : MainChange s t :=
  ⟨State.memWriteWatching_frame h, fun hm => State.memWriteWatching_wf hm h⟩

theorem MainChange.of_copyByte {s t : State} {watched : List Nat} {a b : Word} {k : Nat}
    (h : copyByte watched a b k s = .ok t) : MainChange s t := by
  obtain ⟨v, -, hwrite⟩ := except_bind_ok h
  exact .of_memWriteWatching hwrite

theorem MainChange.of_swapByte {s t : State} {watched : List Nat} {a b : Word} {k : Nat}
    (h : swapByte watched a b k s = .ok t) : MainChange s t := by
  obtain ⟨u, -, h⟩ := except_bind_ok h
  obtain ⟨v, -, h⟩ := except_bind_ok h
  obtain ⟨t1, hfirst, hsecond⟩ := except_bind_ok h
  exact (MainChange.of_memWriteWatching hfirst).trans (.of_memWriteWatching hsecond)

/-- A loop whose every pass changes main memory alone does no more. -/
theorem MainChange.of_forUp {s t : State} {f : Nat → State → Except Stop State} {n : Nat}
    (hf : ∀ k x y, f k x = .ok y → MainChange x y) (h : forUp f n 0 s = .ok t) : MainChange s t :=
  forUp_keeps (MainChange s) (fun k x y hx hy => hx.trans (hf k x y hy)) n 0 s t (.refl s) h

theorem MainChange.of_copyBuffer {s t : State} {a b : Word} {n : Nat} (h : s.copyBuffer a b n = .ok t) :
    MainChange s t := by
  obtain ⟨-, -, h⟩ := except_bind_ok h
  obtain ⟨-, -, h⟩ := except_bind_ok h
  exact .of_forUp (fun _ _ _ => .of_copyByte) h

theorem MainChange.of_swapBuffers {s t : State} {a b : Word} {n : Nat} (h : s.swapBuffers a b n = .ok t) :
    MainChange s t := by
  obtain ⟨-, -, h⟩ := except_bind_ok h
  obtain ⟨-, -, h⟩ := except_bind_ok h
  exact .of_forUp (fun _ _ _ => .of_swapByte) h

theorem MainChange.of_fillBuffer {s t : State} {a v : Word} {n : Nat} (h : s.fillBuffer a n v = .ok t) :
    MainChange s t := by
  obtain ⟨-, -, h⟩ := except_bind_ok h
  exact .of_forUp (fun _ _ _ => .of_memWriteWatching) h

theorem MainChange.of_saveRange {s t : State} {first : RegNum} {base : Word} {n : Nat}
    (h : s.saveRange first base n = .ok t) : MainChange s t := by
  obtain ⟨-, -, h⟩ := except_bind_ok h
  exact .of_forUp (fun _ _ _ => .of_memWriteWatching) h

/-! An instruction that neither traps nor writes `psr`. -/

/-- What such an instruction keeps: `psr`, the requests and the model's own fields, the other mode's stack pointer, the
canonical forms, and data memory itself in user mode. -/
structure PlainEffect (s t : State) : Prop where
  control : SameControl s t
  bank : if s.supervisor then t.usp = s.usp else t.ssp = s.ssp
  main : Memory.wf Config.memSize s.main = true → Memory.wf Config.memSize t.main = true
  data : t.data = s.data ∨
    s.supervisor = true ∧ (Memory.wf Config.dataSize s.data = true → Memory.wf Config.dataSize t.data = true)

namespace PlainEffect

theorem trans {s t u : State} (hst : PlainEffect s t) (htu : PlainEffect t u) : PlainEffect s u := by
  have hmode := hst.control.supervisor
  have hbank := htu.bank
  have hdata := htu.data
  rw [hmode] at hbank hdata
  refine ⟨hst.control.trans htu.control, ?_, fun h => htu.main (hst.main h), ?_⟩
  · have hbank' := hst.bank
    cases hs : s.supervisor <;> rw [hs] at hbank hbank' <;> exact hbank.trans hbank'
  · rcases hdata with hsame | ⟨hsup, hwf⟩
    · rw [hsame]
      exact hst.data
    · refine .inr ⟨hsup, fun h => hwf ?_⟩
      rcases hst.data with hsame' | ⟨-, hwf'⟩
      · rwa [hsame']
      · exact hwf' h

theorem of_mainChange {s t : State} (h : MainChange s t) : PlainEffect s t := by
  have hwf := h.wf
  rw [h.frame] at hwf ⊢
  exact ⟨⟨rfl, rfl, rfl, rfl, rfl, rfl, rfl⟩, by split <;> rfl, hwf, .inl rfl⟩

theorem setReg (s : State) (rd : RegNum) (v : Word) : PlainEffect s (s.setReg rd v) :=
  ⟨(registerFrame_setReg s rd v).1, s.setReg_otherBank rd v, by simp, .inl (by simp)⟩

theorem setPc (s : State) (pc : Word) : PlainEffect s { s with pc := pc } :=
  ⟨⟨rfl, rfl, rfl, rfl, rfl, rfl, rfl⟩, by split <;> rfl, id, .inl rfl⟩

theorem refl (s : State) : PlainEffect s s := setPc s s.pc

theorem of_dataWrite {s t : State} {va : Word} {size : Size} {v : Word} (hsup : s.supervisor = true)
    (h : s.dataWrite va size v = .ok t) : PlainEffect s t := by
  have hwf : Memory.wf Config.dataSize s.data = true → Memory.wf Config.dataSize t.data = true :=
    fun hd => State.dataWrite_wf hd h
  obtain ⟨-, rfl⟩ := State.dataWrite_ok.1 h
  exact ⟨⟨rfl, rfl, rfl, rfl, rfl, rfl, rfl⟩, by split <;> rfl, id, .inr ⟨hsup, hwf⟩⟩

end PlainEffect

/-- Where the operation begun in `s` completes, its effect is a plain one. -/
def Plain (s : State) (r : Except Stop State) : Prop := ∀ t, r = .ok t → PlainEffect s t

namespace Plain

theorem ok {s t : State} (h : PlainEffect s t) : Plain s (.ok t) := by
  rintro _ ⟨⟩
  exact h

/-- What is read or checked first has no effect. -/
theorem bind {α : Type} {s : State} {x : Except Stop α} {f : α → Except Stop State} (h : ∀ a, Plain s (f a)) :
    Plain s (x >>= f) := by
  intro t ht
  obtain ⟨a, -, ha⟩ := except_bind_ok ht
  exact h a t ha

theorem bindSetReg {α : Type} (s : State) (x : Except Stop α) (rd : RegNum) (v : α → Word) :
    Plain s (do let a ← x; .ok (s.setReg rd (v a))) :=
  bind fun a => ok (.setReg s rd (v a))

theorem loadData (s : State) (rd rs1 : RegNum) (off : Int) (size : Size) (extend : Size → Word → Word) :
    Plain s (s.loadData rd rs1 off size extend) :=
  fun t h => bindSetReg s _ rd _ t (State.privileged_ok.1 h).2

theorem storeMain (s : State) (rs1 rs2 : RegNum) (off : Int) (size : Size) : Plain s (s.storeMain rs1 rs2 off size) :=
  fun _ h => .of_mainChange (.of_memWriteWatching h)

theorem storeData (s : State) (rs1 rs2 : RegNum) (off : Int) (size : Size) :
    Plain s (s.storeData rs1 rs2 off size) := by
  intro t h
  obtain ⟨hsup, hwrite⟩ := State.privileged_ok.1 h
  exact .of_dataWrite hsup hwrite

theorem popItem (s : State) (rd sp : RegNum) (size : Size) : Plain s (s.popItem rd sp size) :=
  bind fun _ => ok ((PlainEffect.setReg s sp _).trans (.setReg _ rd _))

theorem pushItem (s : State) (rd sp : RegNum) (size : Size) : Plain s (s.pushItem rd sp size) := by
  intro u h
  obtain ⟨t, hwrite, hpointer⟩ := except_bind_ok h
  cases hpointer
  exact (PlainEffect.of_mainChange (.of_memWriteWatching hwrite)).trans (.setReg t sp _)

theorem restoreRange (s : State) (first : RegNum) (base : Word) (n : Nat) : Plain s (s.restoreRange first base n) := by
  intro t h
  refine forUp_keeps (PlainEffect s) (fun k x y hx hy => hx.trans ?_) n 0 s t (.refl s) h
  exact bindSetReg x _ (rangeReg first k) id y hy

theorem branch (s : State) (taken : Bool) (off : Int) :
    PlainEffect s (if taken then { s with pc := s.relTarget off } else s) := by
  cases taken
  · exact .refl s
  · exact .setPc s _

end Plain

/-! The shifts and rotations never stop: with `SHIFT_MASK5` every amount is reduced (spec/45_r.md R222, log 12). -/

/-- The amount by which a word shifts or rotates: its low 5 bits. -/
def shiftCount (b : Word) : Nat := (b.extractLsb' 0 5).toNat

theorem shiftAmount_eq (b : Word) : shiftAmount b = .ok (shiftCount b) := if_pos (.inl rfl)

theorem exec_shira (rd rs1 : RegNum) (imm : Int) (s : State) : exec (.shira rd rs1 imm) s =
    .next (s.setReg rd ((s.reg rs1).sshiftRight (shiftCount (immWord imm)))) := by
  rw [exec, execShira, shiftAmount_eq]
  rfl

theorem exec_shirl (rd rs1 : RegNum) (imm : Int) (s : State) : exec (.shirl rd rs1 imm) s =
    .next (s.setReg rd (s.reg rs1 >>> shiftCount (immWord imm))) := by
  rw [exec, execShirl, shiftAmount_eq]
  rfl

theorem exec_shill (rd rs1 : RegNum) (imm : Int) (s : State) : exec (.shill rd rs1 imm) s =
    .next (s.setReg rd (s.reg rs1 <<< shiftCount (immWord imm))) := by
  rw [exec, execShill, shiftAmount_eq]
  rfl

theorem exec_shra (rd rs1 rs2 : RegNum) (s : State) : exec (.shra rd rs1 rs2) s =
    .next (s.setReg rd ((s.reg rs1).sshiftRight (shiftCount (s.reg rs2)))) := by
  rw [exec, execShra, shiftAmount_eq]
  rfl

theorem exec_shrl (rd rs1 rs2 : RegNum) (s : State) : exec (.shrl rd rs1 rs2) s =
    .next (s.setReg rd (s.reg rs1 >>> shiftCount (s.reg rs2))) := by
  rw [exec, execShrl, shiftAmount_eq]
  rfl

theorem exec_shll (rd rs1 rs2 : RegNum) (s : State) : exec (.shll rd rs1 rs2) s =
    .next (s.setReg rd (s.reg rs1 <<< shiftCount (s.reg rs2))) := by
  rw [exec, execShll, shiftAmount_eq]
  rfl

theorem exec_ror (rd rs1 rs2 : RegNum) (s : State) : exec (.ror rd rs1 rs2) s =
    .next (s.setReg rd (rotatedRight (s.reg rs1) (shiftCount (s.reg rs2)))) := by
  rw [exec, execRor, shiftAmount_eq]
  rfl

theorem exec_rol (rd rs1 rs2 : RegNum) (s : State) : exec (.rol rd rs1 rs2) s =
    .next (s.setReg rd (rotatedLeft (s.reg rs1) (shiftCount (s.reg rs2)))) := by
  rw [exec, execRol, shiftAmount_eq]
  rfl

/-- The instructions that write `psr`: the T instructions but `gsreg`. -/
def Instr.writesStatus : Instr → Bool
  | .syscall _ _ => true
  | .ssreg _ => true
  | .sysret => true
  | _ => false

/-- Every other instruction is an operation with a plain effect, settled where it began. -/
theorem exec_plain {i : Instr} (h : Instr.writesStatus i = false) (s : State) :
    ∃ r, exec i s = s.finish r ∧ Plain s r := by
  cases i
  case syscall | ssreg | sysret => cases h
  case copy => exact ⟨_, rfl, fun _ h => .of_mainChange (.of_copyBuffer h)⟩
  case swap => exact ⟨_, rfl, fun _ h => .of_mainChange (.of_swapBuffers h)⟩
  case fill => exact ⟨_, rfl, fun _ h => .of_mainChange (.of_fillBuffer h)⟩
  case save => exact ⟨_, rfl, fun _ h => .of_mainChange (.of_saveRange h)⟩
  case through => exact ⟨_, rfl, Plain.bind fun _ => Plain.bind fun _ _ h => .of_mainChange (.of_memWriteWatching h)⟩
  case fromPtr => exact ⟨_, rfl, Plain.bind fun _ => .bindSetReg s _ _ id⟩
  case popb | poph | pop => exact ⟨_, rfl, .popItem s _ _ _⟩
  case pushb | pushh | push => exact ⟨_, rfl, .pushItem s _ _ _⟩
  case restore => exact ⟨_, rfl, .restoreRange s _ _ _⟩
  case beq | bne | blt | bge | bltu | bgeu => exact ⟨.ok _, rfl, .ok (Plain.branch s _ _)⟩
  case jal | jalr => exact ⟨.ok _, rfl, .ok ((PlainEffect.setReg s _ _).trans (.setPc _ _))⟩
  case lb | lbu | lh | lhu | lw => exact ⟨_, rfl, .bindSetReg s _ _ _⟩
  case lbd | lbud | lhd | lhud | lwd => exact ⟨_, rfl, .loadData s _ _ _ _ _⟩
  case sb | sh | sw => exact ⟨_, rfl, .storeMain s _ _ _ _⟩
  case sbd | shd | swd => exact ⟨_, rfl, .storeData s _ _ _ _⟩
  case idivi => exact ⟨_, rfl, .bindSetReg s _ _ _⟩
  case shira => exact ⟨.ok _, exec_shira .., .ok (.setReg s _ _)⟩
  case shirl => exact ⟨.ok _, exec_shirl .., .ok (.setReg s _ _)⟩
  case shill => exact ⟨.ok _, exec_shill .., .ok (.setReg s _ _)⟩
  case shra => exact ⟨.ok _, exec_shra .., .ok (.setReg s _ _)⟩
  case shrl => exact ⟨.ok _, exec_shrl .., .ok (.setReg s _ _)⟩
  case shll => exact ⟨.ok _, exec_shll .., .ok (.setReg s _ _)⟩
  case ror => exact ⟨.ok _, exec_ror .., .ok (.setReg s _ _)⟩
  case rol => exact ⟨.ok _, exec_rol .., .ok (.setReg s _ _)⟩
  case idiv => exact ⟨_, rfl, Plain.bind fun _ => .ok ((PlainEffect.setReg s _ _).trans (.setReg _ _ _))⟩
  case mul | exch => exact ⟨.ok _, rfl, .ok ((PlainEffect.setReg s _ _).trans (.setReg _ _ _))⟩
  all_goals exact ⟨.ok _, rfl, .ok (.setReg s _ _)⟩

/-- What an instruction that answers a next state has done: a plain effect, a trap entry, or in supervisor mode the
write of `psr` by `ssreg` or the return of `sysret`. -/
theorem exec_next {i : Instr} {s t : State} (h : exec i s = .next t) :
    PlainEffect s t ∨ (∃ k v savePc, t = s.trapEntry k v savePc) ∨
      (∃ rs1, i = .ssreg rs1 ∧ s.supervisor = true ∧ t = s.writePsr (s.reg rs1)) ∨
      (i = .sysret ∧ s.supervisor = true ∧ s.trapReturn = .ok t) := by
  have hfault : ∀ {r}, s.finish r = .next t → r = .ok t ∨ ∃ k v savePc, t = s.trapEntry k v savePc := by
    intro r hr
    rcases State.finish_next.1 hr with hok | ⟨e, -, ht⟩
    · exact .inl hok
    · exact .inr ⟨_, _, _, ht⟩
  cases hi : Instr.writesStatus i
  · obtain ⟨r, hr, hplain⟩ := exec_plain hi s
    rcases hfault (hr ▸ h) with hok | htrap
    · exact .inl (hplain t hok)
    · exact .inr (.inl htrap)
  cases i
  case syscall rd vector =>
    rcases hfault h with hok | htrap
    · obtain ⟨v, -, htrap⟩ := except_bind_ok hok
      cases htrap
      exact .inr (.inl ⟨_, _, _, rfl⟩)
    · exact .inr (.inl htrap)
  case ssreg rs1 =>
    rcases hfault h with hok | htrap
    · obtain ⟨hsup, hpsr⟩ := State.privileged_ok.1 hok
      cases hpsr
      exact .inr (.inr (.inl ⟨rs1, rfl, hsup, rfl⟩))
    · exact .inr (.inl htrap)
  case sysret =>
    rcases hfault h with hok | htrap
    · obtain ⟨hsup, hreturn⟩ := State.privileged_ok.1 hok
      exact .inr (.inr (.inr ⟨rfl, hsup, hreturn⟩))
    · exact .inr (.inl htrap)
  all_goals cases hi

/-! What a step can do. -/

/-- The state in which a step enters a trap: as the device agent left it, but for `pc` and for an acknowledged
request. -/
structure TrapFrom (s u : State) : Prop where
  frame : u = { s with pc := u.pc, pending := u.pending, draws := u.draws }
  pending : pendingWf s.pending = true → pendingWf u.pending = true

theorem TrapFrom.refl (s : State) : TrapFrom s s := ⟨rfl, id⟩

theorem TrapFrom.advance (s : State) : TrapFrom s s.advance := ⟨rfl, id⟩

theorem acknowledge_trapFrom {s t : State} (h : s.acknowledge = some t) :
    ∃ u k v savePc, TrapFrom s u ∧ t = u.trapEntry k v savePc := by
  obtain ⟨-, r, -, rfl⟩ := State.acknowledge_some h
  exact ⟨_, _, _, _, ⟨rfl, fun hp => pendingWf_filter hp _⟩, rfl⟩

theorem runWord_next {s t : State} {w : Word} (h : s.runWord w = .next t) :
    (∃ i, exec i s = .next t) ∨ ∃ k v savePc, t = s.trapEntry k v savePc := by
  unfold State.runWord at h
  split at h
  next i _ => exact .inl ⟨i, h⟩
  next => cases h
  all_goals
    rcases State.finish_next.1 h with herror | ⟨e, -, ht⟩
    · cases herror
    · exact .inr ⟨_, _, _, ht⟩

/-- A cycle executes an instruction after the advance of `pc`, or takes a fault of the fetch or of the decoder. -/
theorem cycle_next {s t : State} (h : s.cycle = .next t) :
    (∃ i, exec i s.advance = .next t) ∨ ∃ u k v savePc, (u = s ∨ u = s.advance) ∧ t = u.trapEntry k v savePc := by
  unfold State.cycle at h
  split at h
  next e _ =>
    rcases State.settle_next.1 h with herror | ⟨e, -, ht⟩
    · cases herror
    · exact .inr ⟨s, _, _, _, .inl rfl, ht⟩
  next w _ =>
    rcases runWord_next h with hexec | ⟨k, v, savePc, ht⟩
    · exact .inl hexec
    · exact .inr ⟨s.advance, k, v, savePc, .inr rfl, ht⟩

theorem step_next {s t : State} (h : step s = .next t) :
    s.halted = false ∧ (s.deviceTurn.acknowledge = some t ∨
      s.deviceTurn.acknowledge = none ∧ s.deviceTurn.cycle = .next t) := by
  unfold step at h
  split at h
  · cases h
  next hrun =>
    refine ⟨Bool.eq_false_of_not_eq_true hrun, ?_⟩
    split at h
    next u hu =>
      cases h
      exact .inl hu
    next hnone => exact .inr ⟨hnone, h⟩

/-- What a step that answers a next state has done, after the device agent's turn: a trap entry, a plain effect after
the advance of `pc`, or in supervisor mode a write of `psr` or a return. -/
theorem step_effect {s t : State} (h : step s = .next t) :
    (∃ u k v savePc, TrapFrom s.deviceTurn u ∧ t = u.trapEntry k v savePc) ∨
      PlainEffect s.deviceTurn.advance t ∨
      (∃ v, s.deviceTurn.supervisor = true ∧ t = s.deviceTurn.advance.writePsr v) ∨
      (s.deviceTurn.supervisor = true ∧ s.deviceTurn.advance.trapReturn = .ok t) := by
  rcases (step_next h).2 with hack | ⟨-, hcycle⟩
  · exact .inl (acknowledge_trapFrom hack)
  rcases cycle_next hcycle with ⟨i, hexec⟩ | ⟨u, k, v, savePc, hu, ht⟩
  · rcases exec_next hexec with hplain | ⟨k, v, savePc, ht⟩ | ⟨rs1, -, hsup, ht⟩ | ⟨-, hsup, hreturn⟩
    · exact .inr (.inl hplain)
    · exact .inl ⟨_, k, v, savePc, .advance _, ht⟩
    · exact .inr (.inr (.inl ⟨_, hsup, ht⟩))
    · exact .inr (.inr (.inr ⟨hsup, hreturn⟩))
  · rcases hu with rfl | rfl
    · exact .inl ⟨_, k, v, savePc, .refl _, ht⟩
    · exact .inl ⟨_, k, v, savePc, .advance _, ht⟩

/-! The invariant. -/

theorem State.trapEntry_keeps_wf {s : State} (h : s.wf = true) (k : TrapKind) (v : BitVec 8) (savePc : Word) :
    (s.trapEntry k v savePc).wf = true := by
  obtain ⟨hmain, hdata, hpending⟩ := State.wf_iff.1 h
  obtain ⟨hdata', hpending', -⟩ := s.trapEntry_frame k v savePc
  exact State.wf_iff.2 ⟨State.trapEntry_wf hmain k v savePc, hdata' ▸ hdata, hpending' ▸ hpending⟩

theorem TrapFrom.keeps_wf {s u : State} (h : s.wf = true) (hu : TrapFrom s u) : u.wf = true := by
  obtain ⟨hmain, hdata, hpending⟩ := State.wf_iff.1 h
  have hpending' := hu.pending hpending
  rw [hu.frame] at hpending' ⊢
  exact State.wf_iff.2 ⟨hmain, hdata, hpending'⟩

theorem PlainEffect.keeps_wf {s t : State} (h : s.wf = true) (ht : PlainEffect s t) : t.wf = true := by
  obtain ⟨hmain, hdata, hpending⟩ := State.wf_iff.1 h
  obtain ⟨-, -, -, hpending', -⟩ := ht.control
  refine State.wf_iff.2 ⟨ht.main hmain, ?_, hpending' ▸ hpending⟩
  rcases ht.data with hsame | ⟨-, hwf⟩
  · rwa [hsame]
  · exact hwf hdata

/-- Settles O13: the device agent's turn keeps the invariant, and so does each thing a step can do after it. -/
theorem stepKeepsCanonicalForm : Obligations.StepKeepsCanonicalForm := by
  unfold Obligations.StepKeepsCanonicalForm
  intro s t h hstep
  have hturn : s.deviceTurn.wf = true := State.deviceTurn_wf h
  rcases step_effect hstep with ⟨u, k, v, savePc, hu, rfl⟩ | hplain | ⟨v, -, rfl⟩ | ⟨-, hreturn⟩
  · exact State.trapEntry_keeps_wf (hu.keeps_wf hturn) k v savePc
  · exact hplain.keeps_wf (s := s.deviceTurn.advance) hturn
  · exact hturn
  · obtain ⟨newPc, newPsr, -, -, rfl⟩ := State.trapReturn_ok hreturn
    exact hturn

/-- Settles O14: a plain effect in user mode and a trap entry leave data memory; the rest needs supervisor mode. -/
theorem userNeverWritesDataMemory : Obligations.UserNeverWritesDataMemory := by
  unfold Obligations.UserNeverWritesDataMemory
  intro s t huser hstep
  rcases step_effect hstep with ⟨u, k, v, savePc, hu, rfl⟩ | hplain | ⟨v, hsup, -⟩ | ⟨hsup, -⟩
  · rw [(u.trapEntry_frame k v savePc).1, hu.frame]
  · rcases hplain.data with hsame | ⟨hsup, -⟩
    · exact hsame
    · exact absurd (huser.symm.trans hsup) (by decide)
  · exact absurd (huser.symm.trans hsup) (by decide)
  · exact absurd (huser.symm.trans hsup) (by decide)

/-! The device agent's turn. -/

theorem mem_insertRequest_of_mem {r q : Request} {l : List Request} (h : q ∈ l) : q ∈ insertRequest r l := by
  induction l with
  | nil => cases h
  | cons p l ih =>
    unfold insertRequest
    split
    · exact List.mem_cons_of_mem r h
    · rcases List.mem_cons.1 h with rfl | h
      · exact List.mem_cons_self
      · exact List.mem_cons_of_mem p (ih h)

theorem insertRequest_self_mem (r : Request) (l : List Request) : r ∈ insertRequest r l := by
  induction l with
  | nil => exact List.mem_cons_self
  | cons p l ih =>
    unfold insertRequest
    split
    · exact List.mem_cons_self
    · exact List.mem_cons_of_mem p ih

/-- A request that is pending stays so when another is added. -/
theorem mem_addRequest_of_mem {r q : Request} {l : List Request} (h : q ∈ l) : q ∈ addRequest r l := by
  by_cases hq : q = r
  · rw [hq]
    exact insertRequest_self_mem r _
  · exact mem_insertRequest_of_mem (List.mem_filter.2 ⟨h, by simpa using hq⟩)

theorem State.inDeviceRegion_iff (s : State) (a : Nat) :
    s.inDeviceRegion a = true ↔ a ≤ 0x20 ∨ ∃ r ∈ s.deviceRegion, r.1 ≤ a ∧ a ≤ r.2 := by
  simp only [State.inDeviceRegion, Bool.or_eq_true, decide_eq_true_iff, List.any_eq_true, Bool.and_eq_true]
  rfl

/-- What the device agent may do (spec/93_implementation_defined.md U14): add requests and change bytes of the device
region. -/
structure DeviceEffect (s t : State) : Prop where
  frame : t = { s with pending := t.pending, data := t.data }
  pending : ∀ r ∈ s.pending, r ∈ t.pending
  data : ∀ a, s.inDeviceRegion a = false → Memory.read t.data a = Memory.read s.data a

theorem DeviceEffect.refl (s : State) : DeviceEffect s s := ⟨rfl, fun _ h => h, fun _ _ => rfl⟩

theorem DeviceEffect.trans {s t u : State} (hst : DeviceEffect s t) (htu : DeviceEffect t u) : DeviceEffect s u := by
  have hregion : t.deviceRegion = s.deviceRegion := by rw [hst.frame]
  refine ⟨?_, fun r hr => htu.pending r (hst.pending r hr), fun a ha => ?_⟩
  · rw [htu.frame, hst.frame]
  · have ha' : t.inDeviceRegion a = false := by rwa [State.inDeviceRegion, hregion]
    exact (htu.data a ha').trans (hst.data a ha)

theorem State.deviceMove_effect (s : State) (m : DeviceMove) : DeviceEffect s (s.deviceMove m) := by
  cases m with
  | request r => exact ⟨rfl, fun _ h => mem_addRequest_of_mem h, fun _ _ => rfl⟩
  | port p b =>
    by_cases hp : s.inDeviceRegion p.toNat = true
    · have hmove : s.deviceMove (.port p b) = { s with data := Memory.write s.data p.toNat b } := if_pos hp
      rw [hmove]
      refine ⟨rfl, fun _ h => h, fun a ha => ?_⟩
      have hne : a ≠ p.toNat := by
        rintro rfl
        exact absurd (hp.symm.trans ha) (by decide)
      rw [Memory.read_write, if_neg hne]
    · have hmove : s.deviceMove (.port p b) = s := if_neg hp
      rw [hmove]
      exact .refl s

theorem State.deviceMoves_effect (moves : List DeviceMove) (s : State) :
    DeviceEffect s (moves.foldl State.deviceMove s) := by
  induction moves generalizing s with
  | nil => exact .refl s
  | cons m ms ih => exact (s.deviceMove_effect m).trans (ih _)

/-- The agent's turn is its moves, taken off the schedule. -/
theorem State.deviceTurn_effect (s : State) : DeviceEffect { s with schedule := s.schedule.tail } s.deviceTurn := by
  unfold State.deviceTurn
  split
  next hnil =>
    rw [hnil]
    exact ⟨by rw [List.tail_nil, ← hnil], fun _ h => h, fun _ _ => rfl⟩
  next moves rest hcons =>
    rw [hcons]
    exact State.deviceMoves_effect moves _

theorem State.deviceTurn_halted (s : State) : s.deviceTurn.halted = s.halted := by
  rw [s.deviceTurn_effect.frame]

/-- Settles O10: each move of the agent's turn adds a request or changes a byte of the device region. -/
theorem deviceTurnFrame : Obligations.DeviceTurnFrame := by
  unfold Obligations.DeviceTurnFrame
  intro s
  obtain ⟨hframe, hpending, hdata⟩ := s.deviceTurn_effect
  exact ⟨hframe, hpending, hdata, s.inDeviceRegion_iff⟩

/-! The status word that a trap entry makes (spec/60_exceptions.md R310, R313). -/

theorem extractLsb'_psrSupervisor (p : Word) {start len : Nat} (h : start + len ≤ 31) :
    (psrSupervisor p).extractLsb' start len = p.extractLsb' start len := by
  unfold psrSupervisor
  rw [BitVec.extractLsb'_append_eq_of_add_le h, BitVec.extractLsb'_extractLsb'_of_le h]

theorem extractLsb'_psrWithPriority (p : Word) (level : BitVec 3) {start len : Nat} (h : start + len ≤ 26) :
    (psrWithPriority p level).extractLsb' start len = p.extractLsb' start len := by
  unfold psrWithPriority
  rw [BitVec.extractLsb'_append_eq_of_add_le h, BitVec.extractLsb'_extractLsb'_of_le h]

theorem priority_psrWithPriority (p : Word) (level : BitVec 3) : (psrWithPriority p level).extractLsb' 26 3 = level :=
  (BitVec.extractLsb'_append_eq_of_le (by decide)).trans BitVec.extractLsb'_append_eq_right

theorem getLsbD_psrWithPriority (p : Word) (level : BitVec 3) {i : Nat} (h : 29 ≤ i) (h' : i < 32) :
    (psrWithPriority p level).getLsbD i = p.getLsbD i := by
  unfold psrWithPriority
  rw [BitVec.getLsbD_append, if_neg (by omega), BitVec.getLsbD_append, if_neg (by omega), BitVec.getLsbD_extractLsb']
  simp [show i - 26 - 3 < 3 by omega, show 29 + (i - 26 - 3) = i by omega]

/-- Mode, interrupt enable and MMU enable: a trap entry sets the first and leaves the others. -/
theorem TrapKind.getLsbD_enterPsr (k : TrapKind) (p : Word) {i : Nat} (h : 29 ≤ i) (h' : i < 32) :
    (k.enterPsr p).getLsbD i = (if i = 31 then true else p.getLsbD i) := by
  cases k with
  | interrupt level => rw [TrapKind.enterPsr, getLsbD_psrWithPriority _ _ h h', psrSupervisor_getLsbD]
  | fault | trap => exact psrSupervisor_getLsbD p i

theorem TrapKind.extractLsb'_enterPsr (k : TrapKind) (p : Word) {start len : Nat} (h : start + len ≤ 26) :
    (k.enterPsr p).extractLsb' start len = p.extractLsb' start len := by
  cases k with
  | interrupt level =>
    rw [TrapKind.enterPsr, extractLsb'_psrWithPriority _ _ h, extractLsb'_psrSupervisor _ (by omega)]
  | fault | trap => exact extractLsb'_psrSupervisor p (by omega)

/-! Entering supervisor mode. -/

theorem State.trapEntry_deviceRegion (s : State) (k : TrapKind) (v : BitVec 8) (savePc : Word) :
    (s.trapEntry k v savePc).deviceRegion = s.deviceRegion := by
  rcases s.trapEntry_cases k v savePc with h | ⟨f, -, -, h⟩ <;> rw [h]
  rfl

/-- A trap entry that is no double fault ends in supervisor mode. -/
theorem State.trapEntry_supervisor {s : State} {k : TrapKind} {v : BitVec 8} {savePc : Word}
    (h : s.trapEntry k v savePc ≠ s.doubleFault) : (s.trapEntry k v savePc).supervisor = true := by
  rcases s.trapEntry_cases k v savePc with hdouble | ⟨f, -, -, hentry⟩
  · exact absurd hdouble h
  · rw [hentry]
    exact k.getLsbD_enterPsr s.psr (by decide) (by decide)

/-- A trap entry that ends in user mode was a double fault. -/
theorem State.trapEntry_ssp_of_user {s : State} {k : TrapKind} {v : BitVec 8} {savePc : Word}
    (h : (s.trapEntry k v savePc).supervisor = false) : (s.trapEntry k v savePc).ssp = s.ssp := by
  by_cases hdouble : s.trapEntry k v savePc = s.doubleFault
  · rw [hdouble, State.doubleFault_ssp]
  · exact absurd (h.symm.trans (State.trapEntry_supervisor hdouble)) (by decide)

/-- A trap entry from user mode that ends in supervisor mode was no double fault, which leaves the mode. -/
theorem State.trapEntry_of_user {s : State} {k : TrapKind} {v : BitVec 8} {savePc : Word}
    (huser : s.supervisor = false) (h : (s.trapEntry k v savePc).supervisor = true) :
    ∃ m, s.trapEntry k v savePc = { s with
      main := m, inFault := s.inFault || decide (k = .fault), ssp := s.ssp - 8, psr := k.enterPsr s.psr,
      pc := s.vectorEntry v } := by
  rcases s.trapEntry_cases k v savePc with hdouble | ⟨f, -, -, hentry⟩
  · rw [hdouble] at h
    exact absurd (huser.symm.trans h) (by decide)
  · exact ⟨f.main, hentry⟩

/-- Settles O15: what a step does in user mode other than enter a trap leaves `psr`. -/
theorem userEntersSupervisorByTrapEntry : Obligations.UserEntersSupervisorByTrapEntry := by
  unfold Obligations.UserEntersSupervisorByTrapEntry
  intro s t huser hstep hmode
  have hrunning : s.deviceTurn.halted = false := s.deviceTurn_halted.trans (step_next hstep).1
  rcases step_effect hstep with ⟨u, k, v, savePc, hu, rfl⟩ | hplain | ⟨v, hsup, -⟩ | ⟨hsup, -⟩
  · have hframe := hu.frame
    generalize s.deviceTurn = s' at *
    obtain ⟨m, hentry⟩ := State.trapEntry_of_user (by rw [hframe]; exact huser) hmode
    rw [hentry, hframe]
    exact ⟨⟨v, rfl⟩, rfl, rfl, rfl, hrunning⟩
  · exact absurd (huser.symm.trans (hplain.control.supervisor.symm.trans hmode)) (by decide)
  · exact absurd (huser.symm.trans hsup) (by decide)
  · exact absurd (huser.symm.trans hsup) (by decide)

/-- Settles O16: a plain effect leaves the other mode's bank; a trap entry leaves `usp` and, unless it is a double
fault, ends in supervisor mode. -/
theorem stackBanks : Obligations.StackBanks := by
  unfold Obligations.StackBanks
  intro i s t h
  rcases exec_next h with hplain | ⟨k, v, savePc, rfl⟩ | ⟨rs1, -, hsup, rfl⟩ | ⟨-, hsup, hreturn⟩
  · have hbank := hplain.bank
    exact ⟨fun hsup => by simpa only [hsup, if_true] using hbank,
      fun huser _ => by simpa only [huser, Bool.false_eq_true, if_false] using hbank⟩
  · exact ⟨fun _ => (s.trapEntry_frame k v savePc).2.2.2.1, fun _ => State.trapEntry_ssp_of_user⟩
  · exact ⟨fun _ => rfl, fun _ _ => rfl⟩
  · obtain ⟨newPc, newPsr, -, -, rfl⟩ := State.trapReturn_ok hreturn
    exact ⟨fun _ => rfl, fun huser => absurd (huser.symm.trans hsup) (by decide)⟩

/-- Settles O17: a plain effect leaves `psr`, the requests and the region; the other three cases are those named. -/
theorem statusWriters : Obligations.StatusWriters := by
  unfold Obligations.StatusWriters
  intro i s t h
  rcases exec_next h with hplain | ⟨k, v, savePc, rfl⟩ | ⟨rs1, hi, hsup, rfl⟩ | ⟨hi, hsup, hreturn⟩
  · obtain ⟨hpsr, -, -, hpending, -, hregion, -⟩ := hplain.control
    exact ⟨hpending, hregion, .inl hpsr⟩
  · obtain ⟨-, hpending, -⟩ := s.trapEntry_frame k v savePc
    exact ⟨hpending, s.trapEntry_deviceRegion k v savePc, .inr (.inr (.inr ⟨k, v, savePc, rfl⟩))⟩
  · exact ⟨rfl, rfl, .inr (.inl ⟨rs1, hi⟩)⟩
  · obtain ⟨newPc, newPsr, -, -, rfl⟩ := State.trapReturn_ok hreturn
    exact ⟨rfl, rfl, .inr (.inr (.inl hi))⟩

end Sys2Proof.Machine

end

/-! PROOFS. The checks of an access of main memory, translation, and what a write leaves (O25 to O28, O54). -/

section

namespace Sys2Proof.Machine

/-! Bytes and values. -/

theorem zeroExtended_toNat (size : Size) (v : Word) :
    (zeroExtended size v).toNat = v.toNat % 2 ^ (8 * size.bytes) := by
  have hv := v.isLt
  cases size
  · simp only [zeroExtended, Size.bytes, BitVec.toNat_setWidth, BitVec.extractLsb'_toNat, Nat.shiftRight_zero]
    omega
  · simp only [zeroExtended, Size.bytes, BitVec.toNat_setWidth, BitVec.extractLsb'_toNat, Nat.shiftRight_zero]
    omega
  · exact (Nat.mod_eq_of_lt hv).symm

/-- A value that fits the width is its own extension. -/
theorem zeroExtended_of_lt {size : Size} {v : Word} (h : v.toNat < 2 ^ (8 * size.bytes)) : zeroExtended size v = v :=
  BitVec.eq_of_toNat_eq ((zeroExtended_toNat size v).trans (Nat.mod_eq_of_lt h))

theorem Memory.load_lt (m : Memory) (a : Nat) (size : Size) : (Memory.load m a size).toNat < 2 ^ (8 * size.bytes) := by
  cases size
  · simp only [Memory.load, Size.bytes, BitVec.toNat_setWidth]
    omega
  · simp only [Memory.load, Size.bytes, BitVec.toNat_setWidth]
    omega
  · exact (Memory.load m a .word).isLt

/-- A load of what was stored gives the stored bytes. -/
theorem Memory.load_store_same (m : Memory) (a : Nat) (size : Size) (v : Word) :
    Memory.load (Memory.store m a size v) a size = zeroExtended size v := by
  have hjoin := @BitVec.extractLsb'_append_extractLsb'_eq_extractLsb'
  cases size <;> simp only [Memory.load, Memory.store, Memory.read_write, zeroExtended] <;> simp
  · exact congrArg (fun b : BitVec 16 => b.setWidth 32) (hjoin rfl)
  · have hhigh : v.extractLsb' 24 8 ++ v.extractLsb' 16 8 = v.extractLsb' 16 16 := hjoin rfl
    have hmid : v.extractLsb' 16 16 ++ v.extractLsb' 8 8 = v.extractLsb' 8 24 := hjoin rfl
    rw [hhigh, hmid]
    exact (hjoin rfl).trans BitVec.extractLsb'_eq_self

/-! The checks, in order (spec/20_memory.md R60 to R62). -/

theorem aligned_iff {va : Word} {size : Size} : aligned va size = true ↔ va.toNat % size.bytes = 0 := by
  rw [aligned, decide_eq_true_iff]

section Locate

variable {s : State} {va : Word} {kind : AccessKind} {size : Size}

theorem State.locate_misaligned (h : va.toNat % size.bytes ≠ 0) :
    s.locate va kind size = .error (.raise .addressError) :=
  if_pos ⟨Bool.eq_false_of_not_eq_true (mt aligned_iff.1 h), .inl rfl⟩

/-- Past alignment. -/
theorem State.locate_aligned (h : va.toNat % size.bytes = 0) : s.locate va kind size =
    if va.toNat + size.bytes > 2 ^ 24 then .error (.raise .busError)
    else if s.mmuOn then s.translate va kind size else .ok { phys := va.toNat, dirty := none } := by
  have haligned : ¬ (aligned va size = false ∧ (Config.alignCheck = true ∨ kind = .fetch)) := by
    rw [aligned_iff.2 h]
    exact fun hfalse => Bool.noConfusion hfalse.1
  have hspace : Config.mainSpace = 2 ^ 24 := rfl
  have hsize : Config.memSize = 2 ^ 24 := rfl
  rw [State.locate, if_neg haligned, hspace, hsize]
  by_cases hend : va.toNat + size.bytes > 2 ^ 24 <;> simp only [hend, if_true, if_false]

theorem State.locate_beyond (h : va.toNat % size.bytes = 0) (hend : 2 ^ 24 < va.toNat + size.bytes) :
    s.locate va kind size = .error (.raise .busError) := by
  rw [State.locate_aligned h, if_pos hend]

theorem State.locate_plain (h : va.toNat % size.bytes = 0) (hend : va.toNat + size.bytes ≤ 2 ^ 24)
    (hmmu : s.mmuOn = false) : s.locate va kind size = .ok { phys := va.toNat, dirty := none } := by
  rw [State.locate_aligned h, if_neg (Nat.not_lt.2 hend), hmmu]
  rfl

theorem State.locate_translate (h : va.toNat % size.bytes = 0) (hend : va.toNat + size.bytes ≤ 2 ^ 24)
    (hmmu : s.mmuOn = true) : s.locate va kind size = s.translate va kind size := by
  rw [State.locate_aligned h, if_neg (Nat.not_lt.2 hend), hmmu]
  rfl

end Locate

theorem State.memRead_of_error {s : State} {va : Word} {size : Size} {e : Stop}
    (h : s.locate va .read size = .error e) : s.memRead va size = .error e := by
  rw [State.memRead_eq, State.readPiece, h]

theorem State.memRead_of_ok {s : State} {va : Word} {size : Size} {tr : Translation}
    (h : s.locate va .read size = .ok tr) : s.memRead va size = .ok (Memory.load s.main tr.phys size) :=
  State.memRead_ok.2 ⟨tr, h, rfl⟩

theorem State.memWrite_of_error {s : State} {va : Word} {size : Size} {v : Word} {e : Stop}
    (h : s.locate va .write size = .error e) : s.memWrite va size v = .error e := by
  rw [State.memWrite_eq, h]

theorem State.memWrite_of_ok {s : State} {va : Word} {size : Size} {v : Word} {tr : Translation}
    (h : s.locate va .write size = .ok tr) : s.memWrite va size v = .ok (s.written tr size v) := by
  rw [State.memWrite_eq, h]
  rfl

theorem State.fetch_of_error {s : State} {e : Stop} (h : s.locate s.pc .fetch .word = .error e) :
    s.fetch = .error e := by
  rw [State.fetch, h]

theorem State.fetch_of_ok {s : State} {tr : Translation} (h : s.locate s.pc .fetch .word = .ok tr) :
    s.fetch = .ok (Memory.load s.main tr.phys .word) :=
  State.fetch_ok.2 ⟨tr, h, rfl⟩

/-- Settles O25: the checks of `locate` are made in the order of the statement, and each access does what they give. -/
theorem mainAccessChecks : Obligations.MainAccessChecks := by
  unfold Obligations.MainAccessChecks
  exact ⟨fun _ _ _ _ => ⟨State.locate_misaligned, State.locate_beyond, State.locate_plain, State.locate_translate⟩,
    fun _ _ _ => ⟨fun _ => State.memRead_of_error, fun _ => State.memRead_of_ok⟩,
    fun _ _ _ _ => ⟨fun _ => State.memWrite_of_error, fun _ => State.memWrite_of_ok⟩,
    fun _ => ⟨fun _ => State.fetch_of_error, fun _ => State.fetch_of_ok⟩⟩

/-! Accesses with the MMU off. -/

theorem PlainAccess.locate {s : State} {va : Word} {size : Size} (h : PlainAccess s va size) (kind : AccessKind) :
    s.locate va kind size = .ok { phys := va.toNat, dirty := none } := by
  obtain ⟨hmmu, haligned, hend⟩ := h
  exact State.locate_plain (aligned_iff.1 haligned) hend hmmu

theorem State.entriesOf_mmuOff {s : State} (h : s.mmuOn = false) (va : Word) (size : Size) :
    s.entriesOf va size = [] := by
  rw [State.entriesOf, h]
  rfl

theorem toNat_add_ofNat {a : Word} {k : Nat} (h : a.toNat + k < 2 ^ 32) :
    (a + BitVec.ofNat 32 k).toNat = a.toNat + k := by
  rw [BitVec.toNat_add, BitVec.toNat_ofNat]
  omega

/-- Settles O54: an address inside main memory does not wrap around, so each access passes the checks. -/
theorem plainAccessesAllowed : Obligations.PlainAccessesAllowed := by
  unfold Obligations.PlainAccessesAllowed
  intro s a n k hmmu hk
  constructor
  · intro hend
    have haddr : (a + BitVec.ofNat 32 k).toNat = a.toNat + k := toNat_add_ofNat (by omega)
    have hplain : PlainAccess s (a + BitVec.ofNat 32 k) .byte :=
      ⟨hmmu, aligned_iff.2 (Nat.mod_one _), by rw [haddr, Config.memSize_eq, Size.bytes]; omega⟩
    rw [← haddr]
    exact ⟨hplain.locate .read, hplain.locate .write, State.entriesOf_mmuOff hmmu _ _⟩
  · intro haligned hend
    have haddr : (a + BitVec.ofNat 32 (4 * k)).toNat = a.toNat + 4 * k := toNat_add_ofNat (by omega)
    have hplain : PlainAccess s (a + BitVec.ofNat 32 (4 * k)) .word :=
      ⟨hmmu, aligned_iff.2 (by rw [haddr, Size.bytes]; omega), by rw [haddr, Config.memSize_eq, Size.bytes]; omega⟩
    rw [← haddr]
    exact ⟨hplain.locate .read, hplain.locate .write, State.entriesOf_mmuOff hmmu _ _⟩

/-! Translation (R70 to R75). -/

/-- The page table entry that translates an address. -/
def State.pte (s : State) (va : Word) : Word := Memory.load s.main (s.pteAddr va) .half

theorem State.pte_lt (s : State) (va : Word) : (s.pte va).toNat < 65536 := Memory.load_lt s.main _ .half

theorem frameField_toNat {v : Word} (h : v.toNat < 65536) : (v.extractLsb' 4 12).toNat = v.toNat / 16 := by
  rw [BitVec.extractLsb'_toNat, Nat.shiftRight_eq_div_pow]
  omega

theorem State.pde_eq (s : State) (va : Word) :
    s.pde va = Memory.load s.data (256 * s.pdtField.toNat + 2 * (va.toNat / 2 ^ 22 % 4)) .half := by
  have haddr : s.pdtField.toNat * Config.pdtScale + (va.extractLsb' 22 2).toNat * Config.entrySize =
      256 * s.pdtField.toNat + 2 * (va.toNat / 2 ^ 22 % 4) := by
    simp only [Config.pdtScale, Config.entrySize, BitVec.extractLsb'_toNat, Nat.shiftRight_eq_div_pow]
    omega
  rw [State.pde, haddr]

theorem State.pteAddr_eq (s : State) (va : Word) :
    s.pteAddr va = (s.pde va).toNat / 16 * 4096 + 2 * (va.toNat / 2 ^ 12 % 1024) := by
  have hpde : (s.pde va).toNat < 65536 := Memory.load_lt s.data _ .half
  rw [State.pteAddr, frameField_toNat hpde]
  simp only [Config.pageSize, Config.entrySize, BitVec.extractLsb'_toNat, Nat.shiftRight_eq_div_pow]
  omega

theorem framed_eq {pte : Word} (h : pte.toNat < 65536) (va : Word) :
    framed pte va = pte.toNat / 16 * 4096 + va.toNat % 4096 := by
  rw [framed, frameField_toNat h]
  simp only [Config.pageSize, BitVec.extractLsb'_toNat, Nat.shiftRight_zero]

/-- Every page table entry is in main memory. -/
theorem State.pteAddr_bound (s : State) (va : Word) : s.pteAddr va + 2 ≤ Config.memSize := by
  have hpde : (s.pde va).toNat < 65536 := Memory.load_lt s.data _ .half
  rw [State.pteAddr_eq, Config.memSize_eq]
  omega

/-- An aligned access stays in its page, and every page is in main memory. -/
theorem State.framed_bound (s : State) {va : Word} {size : Size} (h : va.toNat % size.bytes = 0) :
    framed (s.pte va) va + size.bytes ≤ Config.memSize := by
  have hpte := s.pte_lt va
  rw [framed_eq hpte, Config.memSize_eq]
  cases size <;> simp only [Size.bytes] at h ⊢ <;> omega

/-- The outcome of `Translate` for an aligned access: the checks of the entry, then the address. -/
theorem State.translate_aligned {s : State} {va : Word} {kind : AccessKind} {size : Size}
    (h : va.toNat % size.bytes = 0) : s.translate va kind size =
      if (s.pte va).getLsbD 0 = false then .error (.raise .pageFault)
      else if s.supervisor = false ∧ kind = .write ∧ (s.pte va).getLsbD 3 = false then .error (.raise .accessViolation)
      else if s.supervisor = false ∧ kind = .fetch ∧ (s.pte va).getLsbD 2 = false then .error (.raise .accessViolation)
      else .ok { phys := framed (s.pte va) va
                 dirty := if kind = .write ∧ (s.pte va).getLsbD 1 = false then some (s.pteAddr va, s.pte va ||| 2)
                   else none } := by
  have hread : s.physRead (s.pteAddr va) .half = .ok (s.pte va) := if_pos (s.pteAddr_bound va)
  rw [State.translate, hread]
  simp only [if_neg (Nat.not_lt.2 (s.framed_bound h))]

theorem getLsbD_eq_false_iff (v : Word) (i : Nat) : v.getLsbD i = false ↔ v.toNat / 2 ^ i % 2 = 0 := by
  rw [BitVec.getLsbD, Nat.testBit_eq_decide_div_mod_eq, decide_eq_false_iff_not]
  omega

/-- Setting a clear dirty bit adds 2 to an entry. -/
theorem or_dirty_eq_add {v : Word} (h : v.getLsbD 1 = false) : v ||| 2 = BitVec.ofNat 32 (v.toNat + 2) := by
  have hbit : (2 : Word) = BitVec.twoPow 32 1 := rfl
  have hand : v &&& 2 = 0#32 := by
    rw [hbit, BitVec.and_twoPow, h]
    rfl
  rw [← BitVec.add_eq_or_of_and_eq_zero v 2 hand]
  apply BitVec.eq_of_toNat_eq
  rw [BitVec.toNat_add, BitVec.toNat_ofNat]
  rfl

/-- Settles O26: the fields of the entries in numbers, and the two range checks that cannot fail. -/
theorem translationRule : Obligations.TranslationRule := by
  unfold Obligations.TranslationRule
  intro s va kind size haligned pde pteAddr pte hpde hpteAddr hpte
  have haddr : s.pteAddr va = pteAddr := by rw [s.pteAddr_eq, s.pde_eq, ← hpde, hpteAddr]
  have hentry : (s.pte va).toNat = pte := by rw [hpte, ← haddr, State.pte]
  have hbit : ∀ i, (s.pte va).getLsbD i = false ↔ pte / 2 ^ i % 2 = 0 := fun i => by rw [getLsbD_eq_false_iff, hentry]
  have hpresent : (s.pte va).getLsbD 0 = false ↔ pte % 2 = 0 := by simpa using hbit 0
  have hwritable : (s.pte va).getLsbD 3 = false ↔ pte / 8 % 2 = 0 := hbit 3
  have hexecutable : (s.pte va).getLsbD 2 = false ↔ pte / 4 % 2 = 0 := hbit 2
  have hdirty : (s.pte va).getLsbD 1 = false ↔ pte / 2 % 2 = 0 := hbit 1
  rw [State.translate_aligned haligned]
  simp only [hpresent, hwritable, hexecutable, hdirty]
  refine ⟨fun h => if_pos h, fun h huser hkind hw => ?_, fun h huser hkind hx => ?_, fun h hallowed => ?_⟩
  · rw [if_neg (by omega), if_pos ⟨huser, hkind, hw⟩]
  · rw [if_neg (by omega), if_neg (by simp [hkind]), if_pos ⟨huser, hkind, hx⟩]
  · have hwrite : ¬ (s.supervisor = false ∧ kind = .write ∧ pte / 8 % 2 = 0) := by
      rintro ⟨huser, rfl, hw⟩
      simp [huser, hw] at hallowed
    have hfetch : ¬ (s.supervisor = false ∧ kind = .fetch ∧ pte / 4 % 2 = 0) := by
      rintro ⟨huser, rfl, hx⟩
      simp [huser, hx] at hallowed
    rw [if_neg (by omega), if_neg hwrite, if_neg hfetch, framed_eq (s.pte_lt va), hentry, haddr]
    by_cases hclear : kind = .write ∧ pte / 2 % 2 = 0
    · rw [if_pos hclear, if_pos hclear, ← hentry, or_dirty_eq_add (hdirty.2 hclear.2)]
    · rw [if_neg hclear, if_neg hclear]

/-- The stops of `locate`: of the four, those of the translation need the MMU on. -/
theorem State.locate_error {s : State} {va : Word} {kind : AccessKind} {size : Size} {e : Stop}
    (h : s.locate va kind size = .error e) :
    e = .raise .addressError ∨ e = .raise .busError ∨ s.mmuOn = true ∧
      (e = .raise .pageFault ∨ e = .raise .accessViolation ∧ s.supervisor = false ∧ kind ≠ .read) := by
  by_cases haligned : va.toNat % size.bytes = 0
  swap
  · rw [State.locate_misaligned haligned] at h
    cases h
    exact .inl rfl
  rw [State.locate_aligned haligned] at h
  split at h
  · cases h
    exact .inr (.inl rfl)
  split at h
  next hmmu =>
    refine .inr (.inr ⟨hmmu, ?_⟩)
    rw [State.translate_aligned haligned] at h
    split at h
    · cases h
      exact .inl rfl
    split at h
    next hw =>
      cases h
      exact .inr ⟨rfl, hw.1, by simp [hw.2.1]⟩
    split at h
    next hx =>
      cases h
      exact .inr ⟨rfl, hx.1, by simp [hx.2.1]⟩
    · cases h
  next => cases h

/-- Settles O27: a case split on the stops of `locate`. -/
theorem pagingFaultsOnlyByTranslation : Obligations.PagingFaultsOnlyByTranslation := by
  unfold Obligations.PagingFaultsOnlyByTranslation
  refine ⟨rfl, rfl, fun s va kind size => ⟨fun h => ?_, fun h => ?_, fun e h => ?_⟩⟩
  · simpa using State.locate_error h
  · simpa using State.locate_error h
  · rcases State.locate_error h with he | he | ⟨-, he | ⟨he, -⟩⟩ <;> simp [he]

/-! What a write leaves. -/

theorem State.locate_mmuOn_ok {s : State} {va : Word} {kind : AccessKind} {size : Size} {tr : Translation}
    (hmmu : s.mmuOn = true) (h : s.locate va kind size = .ok tr) : s.translate va kind size = .ok tr := by
  by_cases haligned : va.toNat % size.bytes = 0
  · rw [State.locate_aligned haligned, hmmu] at h
    split at h
    · cases h
    · exact h
  · rw [State.locate_misaligned haligned] at h
    cases h

theorem State.locate_mmuOff_ok {s : State} {va : Word} {kind : AccessKind} {size : Size} {tr : Translation}
    (hmmu : s.mmuOn = false) (h : s.locate va kind size = .ok tr) : tr = { phys := va.toNat, dirty := none } := by
  by_cases haligned : va.toNat % size.bytes = 0
  · rw [State.locate_aligned haligned, hmmu] at h
    split at h <;> cases h
    rfl
  · rw [State.locate_misaligned haligned] at h
    cases h

/-- With the MMU on a write sets the dirty bit of the entry that translates it where it is clear (R75). -/
theorem State.locate_write_dirty {s : State} {va : Word} {size : Size} {tr : Translation} (hmmu : s.mmuOn = true)
    (h : s.locate va .write size = .ok tr) :
    tr.dirty = if (s.pte va).getLsbD 1 = false then some (s.pteAddr va, s.pte va ||| 2) else none := by
  obtain ⟨-, -, -, -, hdirty⟩ := State.translate_ok (State.locate_mmuOn_ok hmmu h)
  exact hdirty.trans (if_congr (and_iff_right rfl) rfl rfl)

/-- The page table entry whose dirty bit an access sets is the one that translates its address, and its new value is a
halfword. -/
theorem State.locate_dirty {s : State} {va : Word} {kind : AccessKind} {size : Size} {tr : Translation} {p : Nat}
    {pte : Word} (h : s.locate va kind size = .ok tr) (hdirty : tr.dirty = some (p, pte)) :
    s.mmuOn = true ∧ p = s.pteAddr va ∧ pte = s.pte va ||| 2 ∧ pte.toNat < 2 ^ 16 := by
  cases hmmu : s.mmuOn
  · rw [State.locate_mmuOff_ok hmmu h] at hdirty
    cases hdirty
  · obtain ⟨-, -, -, -, hentry⟩ := State.translate_ok (State.locate_mmuOn_ok hmmu h)
    rw [hdirty] at hentry
    split at hentry
    · cases hentry
      exact ⟨rfl, rfl, rfl, Nat.or_lt_two_pow (s.pte_lt va) (by decide)⟩
    · cases hentry

/-- Setting a dirty bit that is set changes nothing. -/
theorem or_dirty_eq_self {v : Word} (h : v.getLsbD 1 = true) : v ||| 2 = v := by
  have hbit : (2 : Word) = BitVec.twoPow 32 1 := rfl
  apply BitVec.eq_of_getLsbD_eq
  intro i hi
  rw [BitVec.getLsbD_or, hbit, BitVec.getLsbD_twoPow]
  by_cases h1 : 1 = i
  · rw [← h1, h]
    rfl
  · simp [h1]

section Written

variable {s : State} {va : Word} {size : Size} {tr : Translation} {v : Word}

theorem State.written_main (s : State) (tr : Translation) (size : Size) (v : Word) :
    (s.written tr size v).main = Memory.store (s.setDirty tr).main tr.phys size v := rfl

theorem State.written_frame (s : State) (tr : Translation) (size : Size) (v : Word) :
    s.written tr size v = { s with main := (s.written tr size v).main } := by
  unfold State.written State.setDirty
  split <;> rfl

/-- The write-back of a dirty bit leaves every byte but the entry's. -/
theorem State.read_setDirty_outside {a : Nat} (h : ∀ p pte, tr.dirty = some (p, pte) → Outside a p 2) :
    Memory.read (s.setDirty tr).main a = Memory.read s.main a := by
  unfold State.setDirty
  split
  · rfl
  next p pte hdirty => exact Memory.read_store_outside (size := .half) (h p pte hdirty)

theorem State.setDirty_of_none (h : tr.dirty = none) : s.setDirty tr = s := by
  rw [State.setDirty, h]

theorem State.setDirty_of_some {p : Nat} {pte : Word} (h : tr.dirty = some (p, pte)) :
    s.setDirty tr = s.physWrite p .half pte := by
  rw [State.setDirty, h]

/-- An allowed write stores the low bytes of the value, sets the dirty bit of its page and changes no other byte. -/
theorem State.written_stored (h : s.locate va .write size = .ok tr) : Stored s (s.written tr size v) tr size v := by
  refine ⟨Memory.load_store_same _ _ _ _, fun p pte hdirty hapart => ?_, fun a houtside hentry => ?_⟩
  · obtain ⟨-, -, -, hfits⟩ := State.locate_dirty h hdirty
    rw [State.written_main, Memory.load_store_outside (size' := .half) (Or.symm hapart), State.setDirty_of_some hdirty,
      State.physWrite_main, Memory.load_store_same, zeroExtended_of_lt hfits]
  · rw [State.written_main, Memory.read_store_outside houtside, State.read_setDirty_outside hentry]

end Written

/-- Settles O28: where the dirty bit was clear the entry with the bit is written back, and where it was set the entry
has it. -/
theorem dirtyBitSet : Obligations.DirtyBitSet := by
  unfold Obligations.DirtyBitSet
  intro s t va size v tr hmmu hlocate hwrite hapart
  obtain rfl : s.written tr size v = t := Except.ok.inj ((State.memWrite_of_ok hlocate).symm.trans hwrite)
  obtain ⟨hload, hdirty, houtside⟩ := State.written_stored (v := v) hlocate
  have hentry : Memory.load (s.written tr size v).main (s.pteAddr va) .half = s.pte va ||| 2 := by
    cases hbit : (s.pte va).getLsbD 1
    · have hset : tr.dirty = some (s.pteAddr va, s.pte va ||| 2) := by
        rw [State.locate_write_dirty hmmu hlocate, if_pos hbit]
      exact hdirty _ _ hset (Or.symm hapart)
    · have hnone : tr.dirty = none := by
        rw [State.locate_write_dirty hmmu hlocate, hbit]
        rfl
      rw [State.written_main, State.setDirty_of_none hnone, Memory.load_store_outside (size' := .half) hapart,
        or_dirty_eq_self hbit]
      rfl
  refine ⟨?_, hentry, hload, fun a ha hpte => houtside a ha fun p pte hd => ?_⟩
  · rw [hentry, BitVec.getLsbD_or]
    exact Bool.or_true _
  · obtain ⟨-, rfl, -, -⟩ := State.locate_dirty hlocate hd
    exact hpte

end Sys2Proof.Machine

end

/-! PROOFS. The loads, the stores, the stack instructions and the pointer instructions (O29, O35 to O38, O46 to O48,
O56). -/

section

namespace Sys2Proof.Machine

/-! The extensions of a loaded value (spec/00_scope.md R8). -/

/-- A loaded value has zeros above its width already. -/
@[simp] theorem zeroExtended_load (m : Memory) (a : Nat) (size : Size) :
    zeroExtended size (Memory.load m a size) = Memory.load m a size :=
  zeroExtended_of_lt (Memory.load_lt m a size)

theorem signExtended_load_byte (m : Memory) (a : Nat) :
    signExtended .byte (Memory.load m a .byte) = (Memory.read m a).signExtend 32 := by
  have hlow : (Memory.load m a .byte).extractLsb' 0 8 = Memory.read m a := by
    apply BitVec.eq_of_toNat_eq
    simp only [Memory.load, BitVec.extractLsb'_toNat, Nat.shiftRight_zero, BitVec.toNat_setWidth]
    omega
  rw [signExtended, hlow]

theorem signExtended_load_half (m : Memory) (a : Nat) :
    signExtended .half (Memory.load m a .half) = (Memory.read m a ++ Memory.read m (a + 1)).signExtend 32 := by
  have hlow : (Memory.load m a .half).extractLsb' 0 16 = Memory.read m a ++ Memory.read m (a + 1) := by
    apply BitVec.eq_of_toNat_eq
    simp only [Memory.load, BitVec.extractLsb'_toNat, Nat.shiftRight_zero, BitVec.toNat_setWidth]
    omega
  rw [signExtended, hlow]

theorem extractLsb'_zeroExtended_byte (v : Word) : (zeroExtended .byte v).extractLsb' 0 8 = v.setWidth 8 := by
  apply BitVec.eq_of_toNat_eq
  simp [zeroExtended]

theorem extractLsb'_zeroExtended_half (v : Word) : (zeroExtended .half v).extractLsb' 0 16 = v.setWidth 16 := by
  apply BitVec.eq_of_toNat_eq
  simp [zeroExtended]

theorem zeroExtended_byte (v : Word) : zeroExtended .byte v = v &&& 0xFF := by
  apply BitVec.eq_of_toNat_eq
  have hmask : (0xFF : Word).toNat = 2 ^ 8 - 1 := rfl
  rw [zeroExtended_toNat, BitVec.toNat_and, hmask, Nat.and_two_pow_sub_one_eq_mod]
  rfl

theorem zeroExtended_half (v : Word) : zeroExtended .half v = v &&& 0xFFFF := by
  apply BitVec.eq_of_toNat_eq
  have hmask : (0xFFFF : Word).toNat = 2 ^ 16 - 1 := rfl
  rw [zeroExtended_toNat, BitVec.toNat_and, hmask, Nat.and_two_pow_sub_one_eq_mod]
  rfl

/-- The byte at the address of a word is its most significant one (R54). -/
theorem load_byte_eq_shiftRight_load_word (m : Memory) (a : Nat) :
    Memory.load m a .byte = Memory.load m a .word >>> 24 := by
  have hword : Memory.load m a .word >>> 24 =
      ((Memory.load m a .word).extractLsb' 24 8).setWidth 32 := by
    apply BitVec.eq_of_toNat_eq
    have hload := (Memory.load m a .word).isLt
    simp only [BitVec.toNat_ushiftRight, BitVec.toNat_setWidth, BitVec.extractLsb'_toNat, Nat.shiftRight_eq_div_pow]
    omega
  have htop : (Memory.load m a .word).extractLsb' 24 8 = Memory.read m a :=
    BitVec.extractLsb'_append_eq_of_le (by decide) |>.trans
      (BitVec.extractLsb'_append_eq_of_le (by decide) |>.trans BitVec.extractLsb'_append_eq_left)
  rw [hword, htop, Memory.load]

/-! Loads. -/

theorem State.finish_ok (s t : State) : s.finish (.ok t) = .next t := rfl

section Loads

variable {s : State} {rd rs1 : RegNum} {off : Int} {size : Size} {extend : Size → Word → Word} {i : Instr}

/-- An allowed load from main memory writes one register. -/
theorem writesReg_loadMain {tr : Translation} (hexec : exec i s = s.finish (s.loadMain rd rs1 off size extend))
    (h : s.locate (s.effAddr rs1 off) .read size = .ok tr) :
    WritesReg i s rd (extend size (Memory.load s.main tr.phys size)) := by
  apply writesReg_of_exec
  rw [hexec, State.loadMain, State.memRead_of_ok h]
  rfl

theorem dataStop_of_dataAccess {va : Word} (h : DataAccess va size) : dataStop va size = none := by
  obtain ⟨haligned, hend⟩ := h
  rw [dataStop, haligned, if_neg (fun hfalse => Bool.noConfusion hfalse.1), if_neg (Nat.not_lt.2 hend)]

/-- A supervisor's load from inside data memory writes one register. -/
theorem writesReg_loadData (hexec : exec i s = s.finish (s.loadData rd rs1 off size extend))
    (hsup : s.supervisor = true) (h : DataAccess (s.effAddr rs1 off) size) :
    WritesReg i s rd (extend size (Memory.load s.data (s.effAddr rs1 off).toNat size)) := by
  apply writesReg_of_exec
  rw [hexec, State.loadData, State.privileged, if_pos hsup, State.dataRead, dataStop_of_dataAccess h]
  rfl

end Loads

/-- Settles O35: an allowed load writes the extension of the value at the physical address. -/
theorem mainLoads : Obligations.MainLoads := by
  unfold Obligations.MainLoads
  intro s rd rs1 off tr
  refine ⟨fun h => ⟨?_, ?_⟩, fun h => ⟨?_, ?_⟩, fun h => ?_⟩
  · rw [← signExtended_load_byte]
    exact writesReg_loadMain rfl h
  · have hload := writesReg_loadMain (i := .lbu rd rs1 off) (rd := rd) rfl h
    rwa [zeroExtended_load] at hload
  · rw [← signExtended_load_half]
    exact writesReg_loadMain rfl h
  · have hload := writesReg_loadMain (i := .lhu rd rs1 off) (rd := rd) rfl h
    rwa [zeroExtended_load] at hload
  · exact writesReg_loadMain (i := .lw rd rs1 off) (extend := zeroExtended) rfl h

/-- Settles O36: as O35, of data memory. -/
theorem dataLoads : Obligations.DataLoads := by
  unfold Obligations.DataLoads
  rintro s rd rs1 off a hsup rfl
  refine ⟨fun h => ⟨?_, ?_⟩, fun h => ⟨?_, ?_⟩, fun h => ?_⟩
  · rw [← signExtended_load_byte]
    exact writesReg_loadData rfl hsup h
  · have hload := writesReg_loadData (i := .lbud rd rs1 off) (rd := rd) rfl hsup h
    rwa [zeroExtended_load] at hload
  · rw [← signExtended_load_half]
    exact writesReg_loadData rfl hsup h
  · have hload := writesReg_loadData (i := .lhud rd rs1 off) (rd := rd) rfl hsup h
    rwa [zeroExtended_load] at hload
  · exact writesReg_loadData (i := .lwd rd rs1 off) (extend := zeroExtended) rfl hsup h

/-! Stores. -/

theorem onlyMain_of_frame {s t : State} (h : t = { s with main := t.main }) : OnlyMain s t := by
  rw [h]
  exact ⟨⟨rfl, rfl, rfl, rfl, rfl, rfl, rfl⟩, fun _ => rfl, ⟨fun _ _ => rfl, by split <;> rfl⟩, rfl⟩

theorem onlyMain_written (s : State) (tr : Translation) (size : Size) (v : Word) : OnlyMain s (s.written tr size v) :=
  onlyMain_of_frame (s.written_frame tr size v)

/-- An allowed store to main memory changes main memory alone, and there what `Stored` says. -/
theorem storesMain_of_exec {s : State} {i : Instr} {va v : Word} {size : Size} {tr : Translation}
    (hexec : exec i s = s.finish (s.memWrite va size v)) (h : s.locate va .write size = .ok tr) :
    StoresMain i s tr size v := by
  rw [State.memWrite_of_ok h] at hexec
  exact ⟨_, hexec, onlyMain_written s tr size v, State.written_stored h⟩

/-- Settles O37: the three stores are one write each. -/
theorem mainStores : Obligations.MainStores := by
  unfold Obligations.MainStores
  exact fun s rs1 rs2 off tr => ⟨storesMain_of_exec rfl, storesMain_of_exec rfl, storesMain_of_exec rfl⟩

/-- A supervisor's store inside data memory. -/
theorem storesData_of_exec {s : State} {i : Instr} {rs1 rs2 : RegNum} {off : Int} {size : Size}
    (hexec : exec i s = s.finish (s.storeData rs1 rs2 off size)) (hsup : s.supervisor = true)
    (h : DataAccess (s.effAddr rs2 off) size) : StoresData i s (s.effAddr rs2 off).toNat size (s.reg rs1) := by
  rw [State.storeData, State.privileged, if_pos hsup, State.dataWrite, dataStop_of_dataAccess h] at hexec
  exact ⟨_, hexec, ⟨rfl, rfl, rfl, rfl, rfl, rfl, rfl⟩, fun _ => rfl, ⟨fun _ _ => rfl, by split <;> rfl⟩, rfl,
    Memory.load_store_same _ _ _ _, fun x hx => Memory.read_store_outside hx⟩

/-- Settles O38: the three stores are one write of data memory each. -/
theorem dataStores : Obligations.DataStores := by
  unfold Obligations.DataStores
  exact fun s rs1 rs2 off hsup =>
    ⟨storesData_of_exec rfl hsup, storesData_of_exec rfl hsup, storesData_of_exec rfl hsup⟩

/-! A load after a store (O29). -/

theorem WritesReg.next {i : Instr} {s : State} {rd : RegNum} {v : Word} (h : WritesReg i s rd v) (hrd : rd ≠ 0) :
    ∃ t, exec i s = .next t ∧ t.reg rd = v := by
  obtain ⟨t, hexec, hreg, -⟩ := h
  exact ⟨t, hexec, hreg.trans (if_neg hrd)⟩

theorem SameRegsBut.reg_eq {s t : State} (h : SameRegsBut s t []) (i : RegNum) : t.reg i = s.reg i :=
  h.1 i List.not_mem_nil

theorem SameRegsBut.effAddr {s t : State} (h : SameRegsBut s t []) (base : RegNum) (off : Int) :
    t.effAddr base off = s.effAddr base off := by
  rw [State.effAddr, h.reg_eq, State.effAddr]

theorem SameControl.mmuOn {s t : State} (h : SameControl s t) : t.mmuOn = s.mmuOn := by
  obtain ⟨hpsr, -⟩ := h
  rw [State.mmuOn, hpsr, State.mmuOn]

section LoadStore

variable {s : State} {rd rs1 rs2 : RegNum} {off : Int} {size : Size} {extend : Size → Word → Word}

/-- A store to a plain address, and what a load through the same base and offset then gives. -/
theorem loadMain_after_storeMain {st : Instr} (hst : exec st s = s.finish (s.storeMain rs1 rs2 off size))
    (hplain : PlainAccess s (s.effAddr rs2 off) size) (hrd : rd ≠ 0) :
    ∃ t, exec st s = .next t ∧ Memory.load t.main (s.effAddr rs2 off).toNat size = zeroExtended size (s.reg rs1) ∧
      ∀ (ld : Instr) (size' : Size) (extend : Size → Word → Word),
        PlainAccess s (s.effAddr rs2 off) size' → exec ld t = t.finish (t.loadMain rd rs2 off size' extend) →
        ∃ u, exec ld t = .next u ∧
          u.reg rd = extend size' (Memory.load t.main (s.effAddr rs2 off).toNat size') := by
  obtain ⟨t, hexec, ⟨hcontrol, -, hregs, -⟩, hload, -⟩ := storesMain_of_exec hst (hplain.locate .write)
  refine ⟨t, hexec, hload, fun ld size' extend hplain' hld => ?_⟩
  have haddr := hregs.effAddr rs2 off
  obtain ⟨hmmu, haligned, hend⟩ := hplain'
  have hread : PlainAccess t (t.effAddr rs2 off) size' := by
    rw [haddr]
    exact ⟨hcontrol.mmuOn.trans hmmu, haligned, hend⟩
  have hwrites := (writesReg_loadMain hld (hread.locate .read)).next hrd
  rwa [haddr] at hwrites

theorem loadData_after_storeData {st : Instr} (hst : exec st s = s.finish (s.storeData rs1 rs2 off size))
    (hsup : s.supervisor = true) (hinside : DataAccess (s.effAddr rs2 off) size) (hrd : rd ≠ 0) :
    ∃ t, exec st s = .next t ∧ Memory.load t.data (s.effAddr rs2 off).toNat size = zeroExtended size (s.reg rs1) ∧
      ∀ (ld : Instr) (size' : Size) (extend : Size → Word → Word),
        DataAccess (s.effAddr rs2 off) size' → exec ld t = t.finish (t.loadData rd rs2 off size' extend) →
        ∃ u, exec ld t = .next u ∧
          u.reg rd = extend size' (Memory.load t.data (s.effAddr rs2 off).toNat size') := by
  obtain ⟨t, hexec, hcontrol, -, hregs, -, hload, -⟩ := storesData_of_exec hst hsup hinside
  refine ⟨t, hexec, hload, fun ld size' extend hinside' hld => ?_⟩
  have haddr := hregs.effAddr rs2 off
  rw [← haddr] at hinside' ⊢
  exact (writesReg_loadData hld (hcontrol.supervisor.trans hsup) hinside').next hrd

end LoadStore

theorem PlainAccess.byte {s : State} {va : Word} {size : Size} (h : PlainAccess s va size) :
    PlainAccess s va .byte := by
  obtain ⟨hmmu, -, hend⟩ := h
  refine ⟨hmmu, aligned_iff.2 (Nat.mod_one _), ?_⟩
  cases size <;> simp only [Size.bytes] at hend ⊢ <;> omega

theorem DataAccess.byte {va : Word} {size : Size} (h : DataAccess va size) : DataAccess va .byte := by
  obtain ⟨-, hend⟩ := h
  refine ⟨aligned_iff.2 (Nat.mod_one _), ?_⟩
  cases size <;> simp only [Size.bytes] at hend ⊢ <;> omega

/-! What the loads of the stored width, and of the first byte of a word, make of the stored bytes. -/

section Extended

variable {m : Memory} {a : Nat} {v w : Word}

theorem eq_of_load_word (h : Memory.load m a .word = zeroExtended .word v)
    (hw : w = zeroExtended .word (Memory.load m a .word)) : w = v := by
  rw [hw, h]
  rfl

theorem eq_shiftRight_of_load_word (h : Memory.load m a .word = zeroExtended .word v)
    (hw : w = zeroExtended .byte (Memory.load m a .byte)) : w = v >>> 24 := by
  rw [hw, zeroExtended_load, load_byte_eq_shiftRight_load_word, h]
  rfl

theorem eq_and_of_load_half (h : Memory.load m a .half = zeroExtended .half v)
    (hw : w = zeroExtended .half (Memory.load m a .half)) : w = v &&& 0xFFFF := by
  rw [hw, zeroExtended_load, h, zeroExtended_half]

theorem eq_signExtend_of_load_half (h : Memory.load m a .half = zeroExtended .half v)
    (hw : w = signExtended .half (Memory.load m a .half)) : w = (v.setWidth 16).signExtend 32 := by
  rw [hw, h, signExtended, extractLsb'_zeroExtended_half]

theorem eq_and_of_load_byte (h : Memory.load m a .byte = zeroExtended .byte v)
    (hw : w = zeroExtended .byte (Memory.load m a .byte)) : w = v &&& 0xFF := by
  rw [hw, zeroExtended_load, h, zeroExtended_byte]

theorem eq_signExtend_of_load_byte (h : Memory.load m a .byte = zeroExtended .byte v)
    (hw : w = signExtended .byte (Memory.load m a .byte)) : w = (v.setWidth 8).signExtend 32 := by
  rw [hw, h, signExtended, extractLsb'_zeroExtended_byte]

end Extended

/-- Settles O29: the store leaves registers and mode, so the load finds the same address and the stored bytes. -/
theorem loadAfterStore : Obligations.LoadAfterStore := by
  unfold Obligations.LoadAfterStore
  intro s rd rs1 rs2 off hrd
  refine ⟨fun h => ?_, fun h => ?_, fun h => ?_, fun hsup h => ?_, fun hsup h => ?_, fun hsup h => ?_⟩
  · obtain ⟨t, hexec, hload, hloads⟩ := loadMain_after_storeMain (st := .sw rs1 rs2 off) rfl h hrd
    obtain ⟨u, hu, hword⟩ := hloads (.lw rd rs2 off) .word zeroExtended h rfl
    obtain ⟨x, hx, hbyte⟩ := hloads (.lbu rd rs2 off) .byte zeroExtended h.byte rfl
    exact ⟨t, u, x, hexec, hu, eq_of_load_word hload hword, hx, eq_shiftRight_of_load_word hload hbyte⟩
  · obtain ⟨t, hexec, hload, hloads⟩ := loadMain_after_storeMain (st := .sh rs1 rs2 off) rfl h hrd
    obtain ⟨u, hu, hzero⟩ := hloads (.lhu rd rs2 off) .half zeroExtended h rfl
    obtain ⟨x, hx, hsign⟩ := hloads (.lh rd rs2 off) .half signExtended h rfl
    exact ⟨t, u, x, hexec, hu, eq_and_of_load_half hload hzero, hx, eq_signExtend_of_load_half hload hsign⟩
  · obtain ⟨t, hexec, hload, hloads⟩ := loadMain_after_storeMain (st := .sb rs1 rs2 off) rfl h hrd
    obtain ⟨u, hu, hzero⟩ := hloads (.lbu rd rs2 off) .byte zeroExtended h rfl
    obtain ⟨x, hx, hsign⟩ := hloads (.lb rd rs2 off) .byte signExtended h rfl
    exact ⟨t, u, x, hexec, hu, eq_and_of_load_byte hload hzero, hx, eq_signExtend_of_load_byte hload hsign⟩
  · obtain ⟨t, hexec, hload, hloads⟩ := loadData_after_storeData (st := .swd rs1 rs2 off) rfl hsup h hrd
    obtain ⟨u, hu, hword⟩ := hloads (.lwd rd rs2 off) .word zeroExtended h rfl
    obtain ⟨x, hx, hbyte⟩ := hloads (.lbud rd rs2 off) .byte zeroExtended h.byte rfl
    exact ⟨t, u, x, hexec, hu, eq_of_load_word hload hword, hx, eq_shiftRight_of_load_word hload hbyte⟩
  · obtain ⟨t, hexec, hload, hloads⟩ := loadData_after_storeData (st := .shd rs1 rs2 off) rfl hsup h hrd
    obtain ⟨u, hu, hzero⟩ := hloads (.lhud rd rs2 off) .half zeroExtended h rfl
    obtain ⟨x, hx, hsign⟩ := hloads (.lhd rd rs2 off) .half signExtended h rfl
    exact ⟨t, u, x, hexec, hu, eq_and_of_load_half hload hzero, hx, eq_signExtend_of_load_half hload hsign⟩
  · obtain ⟨t, hexec, hload, hloads⟩ := loadData_after_storeData (st := .sbd rs1 rs2 off) rfl hsup h hrd
    obtain ⟨u, hu, hzero⟩ := hloads (.lbud rd rs2 off) .byte zeroExtended h rfl
    obtain ⟨x, hx, hsign⟩ := hloads (.lbd rd rs2 off) .byte signExtended h rfl
    exact ⟨t, u, x, hexec, hu, eq_and_of_load_byte hload hzero, hx, eq_signExtend_of_load_byte hload hsign⟩

/-! Writes that must not change a page table entry in use (spec/46_m.md R240, log 14). -/

theorem changesEntry_iff {s : State} {entries : List Nat} {tr : Translation} {size : Size} {v : Word} :
    (s.setDirty tr).changesEntry (s.written tr size v) entries = true ↔ ChangesUsedEntry s entries tr size v := by
  simp only [State.changesEntry, List.any_eq_true, bne_iff_ne, ChangesUsedEntry, State.written_main, ne_comm]

section Watching

variable {s : State} {entries : List Nat} {va v : Word} {size : Size} {tr : Translation}

theorem State.memWriteWatching_of_unchanged (h : s.locate va .write size = .ok tr)
    (hentries : ¬ ChangesUsedEntry s entries tr size v) :
    s.memWriteWatching entries va size v = .ok (s.written tr size v) := by
  have hpiece : s.memWriteWatching entries va size v = s.writePiece entries va size v := if_pos rfl
  rw [hpiece, State.writePiece, h]
  exact if_neg (mt changesEntry_iff.1 hentries)

theorem State.memWriteWatching_of_changed (h : s.locate va .write size = .ok tr)
    (hentries : ChangesUsedEntry s entries tr size v) :
    s.memWriteWatching entries va size v = .error (.refuse .ownPageTableChanged) := by
  have hpiece : s.memWriteWatching entries va size v = s.writePiece entries va size v := if_pos rfl
  rw [hpiece, State.writePiece, h]
  exact if_pos (changesEntry_iff.2 hentries)

end Watching

/-! Pops and pushes. -/

theorem SameRegsBut.mono {s t : State} {l l' : List RegNum} (hl : ∀ i ∈ l, i ∈ l') (h : SameRegsBut s t l) :
    SameRegsBut s t l' :=
  ⟨fun i hi => h.1 i (mt (hl i) hi), h.2⟩

theorem RegisterFrame.mono {s t : State} {l l' : List RegNum} (hl : ∀ i ∈ l, i ∈ l') (h : RegisterFrame s t l) :
    RegisterFrame s t l' :=
  ⟨h.1, h.2.1, h.2.2.1, h.2.2.2.mono hl⟩

/-- The state after a pop: the pointer is written, then the value. -/
def State.popped (s : State) (rd sp : RegNum) (size : Size) (v : Word) : State :=
  (s.setReg sp (s.reg sp + sizeWord size)).setReg rd v

theorem State.popItem_of_ok {s : State} {rd sp : RegNum} {size : Size} {tr : Translation}
    (h : s.locate (s.reg sp) .read size = .ok tr) :
    s.popItem rd sp size = .ok (s.popped rd sp size (Memory.load s.main tr.phys size)) := by
  rw [State.popItem, State.memRead_of_ok h]
  rfl

theorem registerFrame_popped (s : State) (rd sp : RegNum) (size : Size) (v : Word) :
    RegisterFrame s (s.popped rd sp size v) [rd, sp] :=
  ((registerFrame_setReg s sp _).trans (registerFrame_setReg _ rd v)).mono (by simp [or_comm])

theorem exec_pop_eq {s : State} {rd sp : RegNum} {size : Size} {i : Instr}
    (hi : size = .byte ∧ i = .popb rd sp ∨ size = .half ∧ i = .poph rd sp ∨ size = .word ∧ i = .pop rd sp) :
    exec i s = s.finish (s.popItem rd sp size) := by
  rcases hi with ⟨rfl, rfl⟩ | ⟨rfl, rfl⟩ | ⟨rfl, rfl⟩ <;> rfl

/-- Settles O46: a pop is one read, then two register writes. -/
theorem pops : Obligations.Pops := by
  unfold Obligations.Pops
  intro s rd sp size i tr hi h
  refine ⟨s.popped rd sp size (Memory.load s.main tr.phys size), ?_, registerFrame_popped .., ?_,
    State.reg_setReg_same _ rd _, fun hne => ?_⟩
  · rw [exec_pop_eq hi, State.popItem_of_ok h, State.finish_ok]
  · rw [State.popped, State.setReg_pc, State.setReg_pc]
  · rw [State.popped, State.reg_setReg, if_neg (fun hsame => hne hsame.1)]
    exact State.reg_setReg_same s sp _

theorem exec_push_eq {s : State} {rd sp : RegNum} {size : Size} {i : Instr}
    (hi : size = .byte ∧ i = .pushb rd sp ∨ size = .half ∧ i = .pushh rd sp ∨ size = .word ∧ i = .push rd sp) :
    exec i s = s.finish (s.pushItem rd sp size) := by
  rcases hi with ⟨rfl, rfl⟩ | ⟨rfl, rfl⟩ | ⟨rfl, rfl⟩ <;> rfl

theorem Stored.congr {s t t' : State} {tr : Translation} {size : Size} {v : Word} (hmain : t'.main = t.main)
    (h : Stored s t tr size v) : Stored s t' tr size v := by
  obtain ⟨hload, hdirty, houtside⟩ := h
  exact ⟨hmain ▸ hload, hmain ▸ hdirty, fun a ha hpte => hmain ▸ houtside a ha hpte⟩

/-- Settles O47: a push is one write of main memory below the pointer, then a write of the pointer. -/
theorem pushes : Obligations.Pushes := by
  unfold Obligations.Pushes
  intro s rd sp size i tr hi h
  rw [exec_push_eq hi]
  refine ⟨fun hentries => ?_, fun hentries => ?_⟩
  · refine ⟨(s.written tr size (s.reg rd)).setReg sp (s.reg sp - BitVec.ofNat 32 size.bytes), ?_, ?_⟩
    · rw [State.pushItem, State.pushAddr, sizeWord, State.memWriteWatching_of_unchanged h hentries]
      rfl
    · obtain ⟨hcontrol, hdata, hregs, hpc⟩ := onlyMain_written s tr size (s.reg rd)
      obtain ⟨hcontrol', -, hdata', hregs'⟩ :=
        registerFrame_setReg (s.written tr size (s.reg rd)) sp (s.reg sp - BitVec.ofNat 32 size.bytes)
      exact ⟨hcontrol.trans hcontrol', fun a => (hdata' a).trans (hdata a), hregs.trans hcontrol.supervisor hregs',
        (State.setReg_pc ..).trans hpc, State.reg_setReg_same _ sp _,
        (State.written_stored h).congr (State.setReg_main ..)⟩
  · rw [State.pushItem, State.pushAddr, sizeWord, State.memWriteWatching_of_changed h hentries]
    rfl

theorem not_changesUsedEntry_nil (s : State) (tr : Translation) (size : Size) (v : Word) :
    ¬ ChangesUsedEntry s [] tr size v := by
  rintro ⟨p, hp, -⟩
  cases hp

/-- A push to a plain address and a pop of the same width. -/
theorem pop_after_push {s : State} {rd rd2 sp : RegNum} {size : Size} {pushInstr popInstr : Instr}
    (hpush : size = .byte ∧ pushInstr = .pushb rd sp ∨ size = .half ∧ pushInstr = .pushh rd sp ∨
      size = .word ∧ pushInstr = .push rd sp)
    (hpop : size = .byte ∧ popInstr = .popb rd2 sp ∨ size = .half ∧ popInstr = .poph rd2 sp ∨
      size = .word ∧ popInstr = .pop rd2 sp)
    (hsp : sp ≠ 0) (hrd2 : rd2 ≠ 0) (hne : rd2 ≠ sp)
    (hplain : PlainAccess s (s.reg sp - BitVec.ofNat 32 size.bytes) size) :
    ∃ t u, exec pushInstr s = .next t ∧ exec popInstr t = .next u ∧ u.reg sp = s.reg sp ∧
      u.reg rd2 = zeroExtended size (s.reg rd) := by
  obtain ⟨hmmu, haligned, hend⟩ := hplain
  obtain ⟨t, hexec, hcontrol, -, -, -, hpointer, hload, -⟩ :=
    (pushes s rd sp size pushInstr _ hpush (PlainAccess.locate ⟨hmmu, haligned, hend⟩ .write)).1
      (by rw [State.entriesOf_mmuOff hmmu]; exact not_changesUsedEntry_nil _ _ _ _)
  rw [if_neg hsp] at hpointer
  have hread : PlainAccess t (t.reg sp) size := by
    rw [hpointer]
    exact ⟨hcontrol.mmuOn.trans hmmu, haligned, hend⟩
  obtain ⟨u, hexec', -, -, hvalue, hpointer'⟩ := pops t rd2 sp size popInstr _ hpop (hread.locate .read)
  refine ⟨t, u, hexec, hexec', ?_, ?_⟩
  · rw [hpointer' (Ne.symm hne), if_neg hsp, hpointer, BitVec.sub_add_cancel]
  · rw [hvalue, if_neg hrd2, hpointer, ← hload]

/-- Settles O48: the push leaves the value where the pop reads. -/
theorem pushThenPop : Obligations.PushThenPop := by
  unfold Obligations.PushThenPop
  intro s rd rd2 sp hsp hrd2 hne
  refine ⟨fun h => ?_, fun h => ?_, fun h => ?_⟩
  · exact pop_after_push (size := .word) (.inr (.inr ⟨rfl, rfl⟩)) (.inr (.inr ⟨rfl, rfl⟩)) hsp hrd2 hne h
  · rw [← zeroExtended_half]
    exact pop_after_push (.inr (.inl ⟨rfl, rfl⟩)) (.inr (.inl ⟨rfl, rfl⟩)) hsp hrd2 hne h
  · rw [← zeroExtended_byte]
    exact pop_after_push (.inl ⟨rfl, rfl⟩) (.inl ⟨rfl, rfl⟩) hsp hrd2 hne h

/-! Pointers. -/

/-- Settles O56: `from` is two reads, `through` a read and then a write. -/
theorem throughAndFrom : Obligations.ThroughAndFrom := by
  unfold Obligations.ThroughAndFrom
  rintro s rd rs1 tr1 tr2 p hpointer rfl
  have hread := State.memRead_of_ok hpointer
  refine ⟨fun h => ?_, fun h => ?_⟩
  · apply writesReg_of_exec
    rw [exec, execFromPtr, hread]
    exact congrArg (fun r => s.finish (r >>= fun v => .ok (s.setReg rd v))) (State.memRead_of_ok h)
  · have hcheck := State.checkWrite_ok.2 ⟨tr2, h⟩
    have hexec : exec (.through rd rs1) s = s.finish (s.memWriteWatching (s.entriesOf (s.reg rs1) .word ++
        s.entriesOf (Memory.load s.main tr1.phys .word) .word) (Memory.load s.main tr1.phys .word) .word
        (s.reg rd)) := by
      rw [exec, execThrough, hread]
      exact congrArg (fun r : Except Stop Unit => s.finish (r >>= fun _ => s.memWriteWatching _ _ _ _)) hcheck
    rw [StoresMain, hexec]
    refine ⟨fun hentries => ?_, fun hentries => ?_⟩
    · rw [State.memWriteWatching_of_unchanged h hentries]
      exact ⟨_, rfl, onlyMain_written .., State.written_stored h⟩
    · rw [State.memWriteWatching_of_changed h hentries]
      rfl

end Sys2Proof.Machine

end

/-! PROOFS. Writes made one after another, each translated afresh: the dirty bits that earlier writes set change no
translation but in that it need not set them again (spec/20_memory.md R75, spec/46_m.md R240). -/

section

namespace Sys2Proof.Machine

/-! Memories that read alike. -/

theorem SameMain.trans {s t u : State} (hst : SameMain s t) (htu : SameMain t u) : SameMain s u :=
  fun a => (htu a).trans (hst a)

theorem SameMain.load {s t : State} (h : SameMain s t) (a : Nat) (size : Size) :
    Memory.load t.main a size = Memory.load s.main a size :=
  Memory.load_congr fun x _ _ => h x

theorem SameMain.store {s t : State} (h : SameMain s t) (a : Nat) (size : Size) (v : Word) :
    SameMain (s.physWrite a size v) (t.physWrite a size v) := by
  intro x
  rw [State.physWrite_main, State.physWrite_main, Memory.read_store, Memory.read_store, h x]

/-- Storing the halfword that stands there changes nothing. -/
theorem Memory.read_store_load_half (m : Memory) (a x : Nat) :
    Memory.read (Memory.store m a .half (Memory.load m a .half)) x = Memory.read m x := by
  rw [Memory.read_store]
  split
  next h =>
    obtain rfl | rfl : x = a ∨ x = a + 1 := by
      simp only [Size.bytes] at h
      omega
    · have hbit : 8 * (x + 2 - 1 - x) = 8 := by omega
      rw [Memory.load, Size.bytes, hbit, BitVec.extractLsb'_setWidth_of_le (by decide)]
      exact BitVec.extractLsb'_append_eq_left
    · have hbit : 8 * (a + 2 - 1 - (a + 1)) = 0 := by omega
      rw [Memory.load, Size.bytes, hbit, BitVec.extractLsb'_setWidth_of_le (by decide)]
      exact BitVec.extractLsb'_append_eq_right
  next => rfl

/-! Page table entries and their dirty bits. -/

/-- An entry as it was, or with its dirty bit set. -/
def Dirtied (old new : Word) : Prop := new = old ∨ new = old ||| 2

theorem getLsbD_or_dirty (v : Word) {i : Nat} (h : i ≠ 1) : (v ||| 2).getLsbD i = v.getLsbD i := by
  have hbit : (2 : Word) = BitVec.twoPow 32 1 := rfl
  rw [BitVec.getLsbD_or, hbit, BitVec.getLsbD_twoPow]
  simp [Ne.symm h]

theorem framed_or_dirty (v va : Word) : framed (v ||| 2) va = framed v va := by
  have hframe : (v ||| 2).extractLsb' 4 12 = v.extractLsb' 4 12 := by
    apply BitVec.eq_of_getLsbD_eq
    intro i hi
    rw [BitVec.getLsbD_extractLsb', BitVec.getLsbD_extractLsb', getLsbD_or_dirty _ (by omega)]
  rw [framed, hframe, framed]

/-- Every page table entry is at an even address, so two of them are the same or apart. -/
theorem State.pteAddr_even (s : State) (va : Word) : s.pteAddr va % 2 = 0 := by
  rw [State.pteAddr_eq]
  omega

theorem State.entriesOf_even {s : State} {va : Word} {size : Size} {p : Nat} (h : p ∈ s.entriesOf va size) :
    p % 2 = 0 := by
  unfold State.entriesOf at h
  split at h
  · simp only [List.mem_cons, List.not_mem_nil, or_false] at h
    rcases h with rfl | rfl <;> exact s.pteAddr_even _
  · cases h

theorem State.pteAddr_mem_entriesOf {s : State} (hmmu : s.mmuOn = true) (va : Word) (size : Size) :
    s.pteAddr va ∈ s.entriesOf va size := by
  rw [State.entriesOf, if_pos hmmu]
  exact List.mem_cons_self

/-- Two translations that give the same address, of which the second leaves out a dirty bit only if it is set. -/
structure SameTranslation (m : Memory) (tr tr' : Translation) : Prop where
  phys : tr'.phys = tr.phys
  dirty : tr'.dirty = tr.dirty ∨ tr'.dirty = none ∧ ∀ p pte, tr.dirty = some (p, pte) → Memory.load m p .half = pte

/-- An access that was allowed is allowed, at the same address, when main memory has changed but the page table entry
it uses has at most had its dirty bit set. -/
theorem State.relocate {s : State} {m : Memory} {va : Word} {kind : AccessKind} {size : Size} {tr : Translation}
    (h : s.locate va kind size = .ok tr)
    (hentry : s.mmuOn = true → Dirtied (s.pte va) (Memory.load m (s.pteAddr va) .half)) :
    ∃ tr', ({ s with main := m } : State).locate va kind size = .ok tr' ∧ SameTranslation m tr tr' := by
  by_cases haligned : va.toNat % size.bytes = 0
  swap
  · rw [State.locate_misaligned haligned] at h
    cases h
  have hmmu' : ({ s with main := m } : State).mmuOn = s.mmuOn := rfl
  rw [State.locate_aligned haligned] at h
  rw [State.locate_aligned haligned, hmmu']
  split at h
  · cases h
  next hend =>
  rw [if_neg hend]
  cases hmmu : s.mmuOn
  · rw [hmmu] at h
    exact ⟨tr, h, rfl, .inl rfl⟩
  rw [hmmu, if_pos rfl, State.translate_aligned haligned] at h
  rw [if_pos rfl, State.translate_aligned haligned]
  have hpte' : ({ s with main := m } : State).pte va = Memory.load m (s.pteAddr va) .half := rfl
  have hsup' : ({ s with main := m } : State).supervisor = s.supervisor := rfl
  have haddr' : ({ s with main := m } : State).pteAddr va = s.pteAddr va := rfl
  rcases hentry hmmu with hsame | hset
  · rw [hpte', hsame, hsup', haddr', h]
    exact ⟨tr, rfl, rfl, .inl rfl⟩
  · have hbit : (s.pte va ||| 2).getLsbD 1 = true := by
      rw [BitVec.getLsbD_or]
      exact Bool.or_true _
    rw [hpte', hset, hsup', haddr', getLsbD_or_dirty _ (by decide), getLsbD_or_dirty _ (by decide),
      getLsbD_or_dirty _ (by decide), framed_or_dirty, hbit]
    split at h
    · cases h
    next hpresent =>
    split at h
    · cases h
    next hwrite =>
    split at h
    · cases h
    next hfetch =>
    cases h
    rw [if_neg hpresent, if_neg hwrite, if_neg hfetch]
    refine ⟨_, rfl, rfl, .inr ⟨by simp, fun p pte hd => ?_⟩⟩
    simp only at hd
    split at hd
    · cases hd
      exact hset
    · cases hd

theorem SameTranslation.setDirty {u t : State} {tr tr' : Translation} (hmain : SameMain u t)
    (h : SameTranslation t.main tr tr') : SameMain (u.setDirty tr) (t.setDirty tr') := by
  obtain ⟨-, hdirty | ⟨hnone, hset⟩⟩ := h
  · rw [State.setDirty, State.setDirty, hdirty]
    split
    · exact hmain
    · exact hmain.store _ _ _
  · rw [State.setDirty_of_none hnone]
    cases hd : tr.dirty with
    | none =>
      rw [State.setDirty_of_none hd]
      exact hmain
    | some entry =>
      obtain ⟨p, pte⟩ := entry
      intro x
      rw [State.setDirty_of_some hd, State.physWrite_main, ← hset p pte hd, hmain.load,
        Memory.read_store_load_half, hmain x]

theorem SameTranslation.written {u t : State} {tr tr' : Translation} (hmain : SameMain u t)
    (h : SameTranslation t.main tr tr') (size : Size) (v : Word) :
    SameMain (u.written tr size v) (t.written tr' size v) := by
  rw [State.written, State.written, h.phys]
  exact (h.setDirty hmain).store _ _ _

theorem SameTranslation.changesUsedEntry_iff {u t : State} {tr tr' : Translation} (hmain : SameMain u t)
    (h : SameTranslation t.main tr tr') {entries : List Nat} {size : Size} {v : Word} :
    ChangesUsedEntry t entries tr' size v ↔ ChangesUsedEntry u entries tr size v := by
  have hset := h.setDirty hmain
  have hwritten := h.written hmain size v
  unfold ChangesUsedEntry
  simp only [← State.written_main, hset.load, hwritten.load]

/-! The state of a sequence of writes. -/

/-- `t` is reached from `s` by writes of main memory, reads as `u` does, and the entries in use have changed at most by
their dirty bits. -/
structure Tracks (s : State) (used : List Nat) (u t : State) : Prop where
  frame : t = { s with main := t.main }
  same : SameMain u t
  entries : ∀ p ∈ used, Dirtied (Memory.load s.main p .half) (Memory.load u.main p .half)

theorem Tracks.refl (s : State) (used : List Nat) : Tracks s used s s := ⟨rfl, fun _ => rfl, fun _ _ => .inl rfl⟩

/-- The entries that translate an address are in use. -/
def UsesEntry (s : State) (used : List Nat) (va : Word) : Prop := s.mmuOn = true → s.pteAddr va ∈ used

section Tracks

variable {s u t : State} {used : List Nat} {va : Word} {size : Size} {tr : Translation}

theorem Tracks.relocate (h : Tracks s used u t) (hva : UsesEntry s used va) {kind : AccessKind}
    (hlocate : s.locate va kind size = .ok tr) :
    ∃ tr', t.locate va kind size = .ok tr' ∧ SameTranslation t.main tr tr' := by
  rw [h.frame]
  refine State.relocate hlocate fun hmmu => ?_
  rw [h.same.load]
  exact h.entries _ (hva hmmu)

theorem Tracks.memRead (h : Tracks s used u t) (hva : UsesEntry s used va)
    (hlocate : s.locate va .read size = .ok tr) : t.memRead va size = .ok (Memory.load u.main tr.phys size) := by
  obtain ⟨tr', hlocate', hsame⟩ := h.relocate hva hlocate
  rw [State.memRead_of_ok hlocate', hsame.phys, h.same.load]

/-- The entries in use change at most by their dirty bits in a write that changes none by its bytes. -/
theorem Tracks.written_entries (h : Tracks s used u t) (heven : ∀ p ∈ used, p % 2 = 0)
    (hlocate : s.locate va .write size = .ok tr) {v : Word} (hkeep : ¬ ChangesUsedEntry u used tr size v) :
    ∀ p ∈ used, Dirtied (Memory.load s.main p .half) (Memory.load (u.written tr size v).main p .half) := by
  intro p hp
  have hbytes : Memory.load (u.written tr size v).main p .half = Memory.load (u.setDirty tr).main p .half := by
    by_contra hne
    exact hkeep ⟨p, hp, hne⟩
  rw [hbytes]
  cases hd : tr.dirty with
  | none =>
    rw [State.setDirty_of_none hd]
    exact h.entries p hp
  | some entry =>
    obtain ⟨q, pte⟩ := entry
    obtain ⟨-, hq, hpte, hfits⟩ := State.locate_dirty hlocate hd
    rw [State.setDirty_of_some hd, State.physWrite_main]
    by_cases hpq : p = q
    · rw [hpq, Memory.load_store_same, zeroExtended_of_lt hfits, hpte, hq]
      exact .inr rfl
    · have hparity := heven p hp
      have hparity' := s.pteAddr_even va
      rw [Memory.load_store_outside (by simp only [Size.bytes]; omega)]
      exact h.entries p hp

/-- A write that changes no entry in use by its bytes is made, and what is made of it is the write as first
translated. -/
theorem Tracks.write (h : Tracks s used u t) (hva : UsesEntry s used va) (heven : ∀ p ∈ used, p % 2 = 0)
    (hlocate : s.locate va .write size = .ok tr) {v : Word} (hkeep : ¬ ChangesUsedEntry u used tr size v)
    {watched : List Nat} (hwatched : ∀ p ∈ watched, p ∈ used) :
    ∃ t', t.memWriteWatching watched va size v = .ok t' ∧ Tracks s used (u.written tr size v) t' := by
  obtain ⟨tr', hlocate', hsame⟩ := h.relocate hva hlocate
  have hkeep' : ¬ ChangesUsedEntry t watched tr' size v := by
    rintro ⟨p, hp, hne⟩
    exact hkeep ((hsame.changesUsedEntry_iff h.same).1 ⟨p, hwatched p hp, hne⟩)
  refine ⟨_, State.memWriteWatching_of_unchanged hlocate' hkeep', ?_, hsame.written h.same size v,
    h.written_entries heven hlocate hkeep⟩
  rw [State.written_frame, h.frame]

/-- A write that changes an entry in use by its bytes is refused. -/
theorem Tracks.refuse (h : Tracks s used u t) (hva : UsesEntry s used va)
    (hlocate : s.locate va .write size = .ok tr) {v : Word} (hchange : ChangesUsedEntry u used tr size v)
    {watched : List Nat} (hwatched : ∀ p ∈ used, p ∈ watched) :
    t.memWriteWatching watched va size v = .error (.refuse .ownPageTableChanged) := by
  obtain ⟨tr', hlocate', hsame⟩ := h.relocate hva hlocate
  obtain ⟨p, hp, hne⟩ := (hsame.changesUsedEntry_iff h.same).2 hchange
  exact State.memWriteWatching_of_changed hlocate' ⟨p, hwatched p hp, hne⟩

end Tracks

/-! Loops. -/

/-- A loop whose every pass goes through, from one property to the next. -/
theorem forUp_reaches {α : Type} (P : Nat → α → Prop) {f : Nat → α → Except Stop α} {n k : Nat} {x : α}
    (hstep : ∀ j y, k ≤ j → j < k + n → P j y → ∃ z, f j y = .ok z ∧ P (j + 1) z) (hx : P k x) :
    ∃ z, forUp f n k x = .ok z ∧ P (k + n) z := by
  induction n generalizing k x with
  | zero => exact ⟨x, rfl, hx⟩
  | succ n ih =>
    obtain ⟨y, hy, hPy⟩ := hstep k x le_rfl (by omega) hx
    obtain ⟨z, hz, hPz⟩ := ih (fun j y hj hj' => hstep j y (by omega) (by omega)) hPy
    refine ⟨z, ?_, by rwa [Nat.add_right_comm] at hPz⟩
    rw [forUp, hy]
    exact hz

/-- A loop that goes through to a pass that stops it. -/
theorem forUp_stops {α : Type} (P : Nat → α → Prop) {f : Nat → α → Except Stop α} {e : Stop} {n k m : Nat} {x : α}
    (hm : m < n) (hstep : ∀ j y, k ≤ j → j < k + m → P j y → ∃ z, f j y = .ok z ∧ P (j + 1) z)
    (hstop : ∀ y, P (k + m) y → f (k + m) y = .error e) (hx : P k x) : forUp f n k x = .error e := by
  induction m generalizing n k x with
  | zero =>
    obtain ⟨n, rfl⟩ := Nat.exists_eq_succ_of_ne_zero (Nat.ne_of_gt hm)
    have hfirst : f k x = .error e := hstop x hx
    rw [forUp, hfirst]
  | succ m ih =>
    obtain ⟨n, rfl⟩ := Nat.exists_eq_succ_of_ne_zero (Nat.ne_of_gt (Nat.zero_lt_of_lt hm))
    obtain ⟨y, hy, hPy⟩ := hstep k x le_rfl (by omega) hx
    rw [forUp, hy]
    refine ih (Nat.lt_of_succ_lt_succ hm) (fun j y hj hj' => hstep j y (by omega) (by omega)) (fun y hPy' => ?_) hPy
    have hindex : k + 1 + m = k + (m + 1) := by omega
    rw [hindex] at hPy' ⊢
    exact hstop y hPy'

/-- What each pass of a loop that completes establishes from the pass before. -/
theorem forUp_ok {α : Type} (P : Nat → α → Prop) {f : Nat → α → Except Stop α} {n k : Nat} {x y : α}
    (hstep : ∀ j u v, P j u → f j u = .ok v → P (j + 1) v) (hx : P k x) (h : forUp f n k x = .ok y) : P (k + n) y := by
  induction n generalizing k x with
  | zero =>
    cases h
    exact hx
  | succ n ih =>
    rw [forUp] at h
    split at h
    · cases h
    next z hz =>
      have hy := ih (hstep k x z hx hz) h
      rwa [Nat.add_right_comm] at hy

/-- The writes of a loop in sequence: pass `k` takes a state that tracks `U k` to one that tracks `U (k + 1)`, unless
it changes an entry in use and is refused. -/
structure TracksPass (s : State) (used : List Nat) (U : Nat → State) (changes : Nat → Prop)
    (f : Nat → State → Except Stop State) (k : Nat) : Prop where
  go : ∀ t, Tracks s used (U k) t → ¬ changes k → ∃ t', f k t = .ok t' ∧ Tracks s used (U (k + 1)) t'
  refuse : ∀ t, Tracks s used (U k) t → changes k → f k t = .error (.refuse .ownPageTableChanged)

section TracksLoop

variable {s : State} {used : List Nat} {U : Nat → State} {changes : Nat → Prop} {f : Nat → State → Except Stop State}
  {n : Nat} (hpass : ∀ k, k < n → TracksPass s used U changes f k) (hU : U 0 = s)
include hpass hU

theorem forUp_tracks (hkeep : ¬ ∃ k, k < n ∧ changes k) : ∃ t, forUp f n 0 s = .ok t ∧ Tracks s used (U n) t := by
  have hloop := forUp_reaches (fun k t => Tracks s used (U k) t) (f := f) (n := n) (k := 0) (x := s)
    (fun j t _ hj ht => (hpass j (by omega)).go t ht fun hc => hkeep ⟨j, by omega, hc⟩) (hU ▸ Tracks.refl s used)
  rwa [Nat.zero_add] at hloop

theorem forUp_refused (hchange : ∃ k, k < n ∧ changes k) :
    forUp f n 0 s = .error (.refuse .ownPageTableChanged) := by
  classical
  have hfirst := Nat.find_spec hchange
  have hbefore : ∀ j, j < Nat.find hchange → ¬ changes j := fun j hj hc =>
    Nat.find_min hchange hj ⟨Nat.lt_trans hj hfirst.1, hc⟩
  refine forUp_stops (fun k t => Tracks s used (U k) t) hfirst.1 (fun j t _ hj ht => ?_) (fun t ht => ?_)
    (hU ▸ Tracks.refl s used)
  · rw [Nat.zero_add] at hj
    exact (hpass j (Nat.lt_trans hj hfirst.1)).go t ht (hbefore j hj)
  · rw [Nat.zero_add] at ht ⊢
    exact (hpass _ hfirst.1).refuse t ht hfirst.2

end TracksLoop

/-! What writes to addresses apart leave. -/

/-- A write that is allowed in `s`, at an address apart from every page table entry in use. -/
def WriteApart (s : State) (used : List Nat) (size : Size) (tr : Translation) : Prop :=
  (∃ va, s.locate va .write size = .ok tr ∧ UsesEntry s used va) ∧ ∀ p ∈ used, Apart tr.phys size.bytes p 2

/-- `u` is `s` with the writes `W` made: each value is there, each dirty bit is set, nothing else changed. -/
structure Wrote (s u : State) (size : Size) (W : Translation → Word → Prop) : Prop where
  outside : ∀ a, (∀ tr v, W tr v → Outside a tr.phys size.bytes ∧ ∀ p pte, tr.dirty = some (p, pte) → Outside a p 2) →
    Memory.read u.main a = Memory.read s.main a
  stored : ∀ tr v, W tr v → Memory.load u.main tr.phys size = zeroExtended size v
  dirty : ∀ tr v, W tr v → ∀ p pte, tr.dirty = some (p, pte) → Memory.load u.main p .half = pte

theorem Wrote.refl (s : State) (size : Size) : Wrote s s size (fun _ _ => False) :=
  ⟨fun _ _ => rfl, fun _ _ h => h.elim, fun _ _ h => h.elim⟩

theorem Wrote.congr {s u : State} {size : Size} {W W' : Translation → Word → Prop} (hW : ∀ tr v, W' tr v ↔ W tr v)
    (h : Wrote s u size W) : Wrote s u size W' :=
  ⟨fun a ha => h.outside a fun tr v hw => ha tr v ((hW tr v).2 hw), fun tr v hw => h.stored tr v ((hW tr v).1 hw),
    fun tr v hw => h.dirty tr v ((hW tr v).1 hw)⟩

theorem Wrote.sameMain {s u t : State} {size : Size} {W : Translation → Word → Prop} (hmain : SameMain u t)
    (h : Wrote s u size W) : Wrote s t size W :=
  ⟨fun a ha => (hmain a).trans (h.outside a ha), fun tr v hw => (hmain.load _ _).trans (h.stored tr v hw),
    fun tr v hw p pte hd => (hmain.load _ _).trans (h.dirty tr v hw p pte hd)⟩

section Wrote

variable {s u : State} {used : List Nat} {size : Size} {W : Translation → Word → Prop} {tr : Translation} {v : Word}

theorem WriteApart.dirty (h : WriteApart s used size tr) {p : Nat} {pte : Word} (hd : tr.dirty = some (p, pte)) :
    p ∈ used ∧ p % 2 = 0 ∧ pte = Memory.load s.main p .half ||| 2 ∧ zeroExtended .half pte = pte := by
  obtain ⟨⟨va, hlocate, hva⟩, -⟩ := h
  obtain ⟨hmmu, rfl, rfl, hfits⟩ := State.locate_dirty hlocate hd
  exact ⟨hva hmmu, s.pteAddr_even va, rfl, zeroExtended_of_lt hfits⟩

/-- A write apart from the entries in use changes none of them by its bytes. -/
theorem WriteApart.keepsEntries (h : WriteApart s used size tr) : ¬ ChangesUsedEntry u used tr size v := by
  rintro ⟨p, hp, hne⟩
  exact hne (Memory.load_store_outside (size' := .half) (Or.symm (h.2 p hp)))

/-- One more write, to bytes that no earlier one stored, or with the value that it stored there. -/
theorem Wrote.write (h : Wrote s u size W) (hW : ∀ tr' v', W tr' v' → WriteApart s used size tr')
    (htr : WriteApart s used size tr)
    (hapart : ∀ tr' v', W tr' v' → Apart tr'.phys size.bytes tr.phys size.bytes ∨ tr'.phys = tr.phys ∧ v' = v) :
    Wrote s (u.written tr size v) size (fun tr' v' => W tr' v' ∨ tr' = tr ∧ v' = v) := by
  have hentry : ∀ p pte, tr.dirty = some (p, pte) → Memory.load (u.written tr size v).main p .half = pte := by
    intro p pte hd
    obtain ⟨hp, -, -, hfits⟩ := htr.dirty hd
    rw [State.written_main, Memory.load_store_outside (size' := .half) (Or.symm (htr.2 p hp)),
      State.setDirty_of_some hd, State.physWrite_main, Memory.load_store_same, hfits]
  refine ⟨fun a ha => ?_, fun tr' v' hw => ?_, fun tr' v' hw p pte hd => ?_⟩
  · obtain ⟨hbytes, hdirty⟩ := ha tr v (.inr ⟨rfl, rfl⟩)
    rw [State.written_main, Memory.read_store_outside hbytes, State.read_setDirty_outside hdirty]
    exact h.outside a fun tr' v' hw => ha tr' v' (.inl hw)
  · rcases hw with hw | ⟨rfl, rfl⟩
    · rcases hapart tr' v' hw with hap | ⟨hphys, rfl⟩
      · rw [State.written_main, Memory.load_store_outside hap, ← h.stored tr' v' hw]
        refine Memory.load_congr fun x hx hx' => State.read_setDirty_outside fun p pte hd => ?_
        have hp := (hW tr' v' hw).2 p (htr.dirty hd).1
        unfold Apart at hp
        unfold Outside
        omega
      · rw [State.written_main, hphys, Memory.load_store_same]
    · rw [State.written_main, Memory.load_store_same]
  · rcases hw with hw | ⟨rfl, rfl⟩
    · obtain ⟨hp, heven, hpte, -⟩ := (hW tr' v' hw).dirty hd
      rw [State.written_main, Memory.load_store_outside (size' := .half) (Or.symm (htr.2 p hp))]
      cases hd' : tr.dirty with
      | none =>
        rw [State.setDirty_of_none hd']
        exact h.dirty tr' v' hw p pte hd
      | some entry =>
        obtain ⟨q, qpte⟩ := entry
        obtain ⟨-, heven', hqpte, hfits⟩ := htr.dirty hd'
        rw [State.setDirty_of_some hd', State.physWrite_main]
        by_cases hpq : p = q
        · rw [hpq, Memory.load_store_same, hfits, hqpte, hpte, hpq]
        · rw [Memory.load_store_outside (by simp only [Size.bytes]; omega)]
          exact h.dirty tr' v' hw p pte hd
    · exact hentry p pte hd

end Wrote

end Sys2Proof.Machine

end

/-! PROOFS. `save`, `fill`, `copy` and `swap` (O49, O51 to O53). -/

section

namespace Sys2Proof.Machine

/-! The checks before the accesses, and the page table entries that the instructions watch. -/

/-- Checks that all pass. -/
theorem forUp_checks {f : Nat → Unit → Except Stop Unit} {n : Nat} (h : ∀ k, k < n → f k () = .ok ()) :
    forUp f n 0 () = .ok () := by
  obtain ⟨_, hloop, -⟩ := forUp_reaches (fun _ _ => True) (f := f) (n := n) (k := 0) (x := ())
    (fun j _ _ hj _ => ⟨(), h j (by omega), trivial⟩) trivial
  exact hloop

theorem State.mem_bufferEntries {s : State} {a : Word} {n p : Nat} :
    p ∈ s.bufferEntries a n ↔ ∃ k, k < n ∧ p ∈ s.entriesOf (a + BitVec.ofNat 32 k) .byte := by
  induction n with
  | zero => simp [State.bufferEntries]
  | succ n ih => simp only [State.bufferEntries, List.mem_append, ih, addrUp, Nat.lt_succ_iff_lt_or_eq, or_and_right,
      exists_or, exists_eq_left, or_comm]

theorem State.mem_rangeEntries {s : State} {base : Word} {n p : Nat} :
    p ∈ s.rangeEntries base n ↔ ∃ k, k < n ∧ p ∈ s.entriesOf (base + BitVec.ofNat 32 (4 * k)) .word := by
  induction n with
  | zero => simp [State.rangeEntries]
  | succ n ih => simp only [State.rangeEntries, List.mem_append, ih, addrUp, Nat.lt_succ_iff_lt_or_eq, or_and_right,
      exists_or, exists_eq_left, or_comm]

theorem State.mem_entriesUsed {s : State} {l : List Access} {p : Nat} :
    p ∈ s.entriesUsed l ↔ ∃ x ∈ l, p ∈ s.entriesOf x.1 x.2.2 := List.mem_flatMap

theorem State.entriesUsed_even {s : State} {l : List Access} {p : Nat} (h : p ∈ s.entriesUsed l) : p % 2 = 0 := by
  obtain ⟨x, -, hp⟩ := State.mem_entriesUsed.1 h
  exact State.entriesOf_even hp

/-- The entry that translates an access is one that the accesses use. -/
theorem usesEntry_of_mem {s : State} {l : List Access} {va : Word} {kind : AccessKind} {size : Size}
    (h : (va, kind, size) ∈ l) : UsesEntry s (s.entriesUsed l) va :=
  fun hmmu => State.mem_entriesUsed.2 ⟨_, h, State.pteAddr_mem_entriesOf hmmu va size⟩

/-! An instruction of one write in each pass. -/

/-- Pass `k` of a loop that is one watched write, of a value that the states before it determine. -/
theorem tracksPass_write {s : State} {used watched : List Nat} {tr : Nat → Translation} {size : Size}
    {val : Nat → State → Word} {f : Nat → State → Except Stop State} {k : Nat} {va : Word}
    (heven : ∀ p ∈ used, p % 2 = 0) (hwatched : ∀ p, p ∈ watched ↔ p ∈ used) (hva : UsesEntry s used va)
    (hlocate : s.locate va .write size = .ok (tr k))
    (hf : ∀ t, Tracks s used (s.afterWrites tr size val k) t →
      f k t = t.memWriteWatching watched va size (val k (s.afterWrites tr size val k))) :
    TracksPass s used (s.afterWrites tr size val)
      (fun k => ChangesUsedEntry (s.afterWrites tr size val k) used (tr k) size (val k (s.afterWrites tr size val k)))
      f k := by
  refine ⟨fun t ht hkeep => ?_, fun t ht hchange => ?_⟩
  · rw [hf t ht]
    exact ht.write hva heven hlocate hkeep fun p hp => (hwatched p).1 hp
  · rw [hf t ht]
    exact ht.refuse hva hlocate hchange fun p hp => (hwatched p).2 hp

section Sequence

variable {s : State} {i : Instr} {used : List Nat} {U : Nat → State} {changes : Nat → Prop}
  {f : Nat → State → Except Stop State} {n : Nat}

/-- An instruction that is a sequence of writes: it completes with main memory as they leave it, or it is refused. -/
theorem exec_sequence (hexec : exec i s = s.finish (forUp f n 0 s))
    (hpass : ∀ k, k < n → TracksPass s used U changes f k) (hU : U 0 = s) :
    (¬ (∃ k, k < n ∧ changes k) → ∃ t, exec i s = .next t ∧ OnlyMain s t ∧ SameMain (U n) t ∧ (n = 0 → t = s)) ∧
      ((∃ k, k < n ∧ changes k) → exec i s = .refused .ownPageTableChanged) := by
  refine ⟨fun hkeep => ?_, fun hchange => ?_⟩
  · obtain ⟨t, hloop, ht⟩ := forUp_tracks hpass hU hkeep
    rw [hloop] at hexec
    refine ⟨t, hexec, onlyMain_of_frame ht.frame, ht.same, fun hn => ?_⟩
    rw [hn] at hloop
    cases hloop
    rfl
  · rw [hexec, forUp_refused hpass hU hchange]
    rfl

end Sequence

/-- The writes of the first `m` passes. -/
def WritesBelow (tr : Nat → Translation) (value : Nat → Word) (m : Nat) (tr' : Translation) (v : Word) : Prop :=
  ∃ j, j < m ∧ tr' = tr j ∧ v = value j

/-- Writes in sequence, apart from the entries in use and from each other (or of the same value), leave what each of
them wrote. -/
theorem wrote_afterWrites {s : State} {used : List Nat} {tr : Nat → Translation} {size : Size}
    {val : Nat → State → Word} {value : Nat → Word} {n : Nat} (hwrite : ∀ k, k < n → WriteApart s used size (tr k))
    (hvalue : ∀ k, k < n → Wrote s (s.afterWrites tr size val k) size (WritesBelow tr value k) →
      val k (s.afterWrites tr size val k) = value k)
    (hapart : ∀ j k, j < k → k < n →
      Apart (tr j).phys size.bytes (tr k).phys size.bytes ∨ (tr j).phys = (tr k).phys ∧ value j = value k) :
    ∀ m, m ≤ n → Wrote s (s.afterWrites tr size val m) size (WritesBelow tr value m) := by
  intro m
  induction m with
  | zero =>
    refine fun _ => (Wrote.refl s size).congr fun tr' v => ⟨?_, False.elim⟩
    rintro ⟨j, hj, -⟩
    exact Nat.not_lt_zero j hj
  | succ m ih =>
    intro hm
    have hbefore := ih (Nat.le_of_succ_le hm)
    have hnext := hbefore.write (tr := tr m) (v := value m)
      (by rintro tr' v' ⟨j, hj, rfl, -⟩; exact hwrite j (by omega)) (hwrite m hm)
      (by rintro tr' v' ⟨j, hj, rfl, rfl⟩; exact hapart j m hj hm)
    rw [State.afterWrites, hvalue m hm hbefore]
    refine hnext.congr fun tr' v => ?_
    simp only [WritesBelow, Nat.lt_succ_iff_lt_or_eq, or_and_right, exists_or, exists_eq_left]

/-- No write apart from the entries in use changes one. -/
theorem not_writesChangeEntry {s : State} {used : List Nat} {tr : Nat → Translation} {size : Size}
    {val : Nat → State → Word} {n : Nat} (hwrite : ∀ k, k < n → WriteApart s used size (tr k)) :
    ¬ WritesChangeEntry s used tr size val n := by
  rintro ⟨k, hk, hchange⟩
  exact (hwrite k hk).keepsEntries hchange

/-- What the writes of a sequence leave, in the words of the statements. -/
theorem Wrote.sequence {s u : State} {size : Size} {tr : Nat → Translation} {value : Nat → Word} {n : Nat}
    (h : Wrote s u size (WritesBelow tr value n)) :
    (∀ k, k < n → Memory.load u.main (tr k).phys size = zeroExtended size (value k)) ∧
      MainOutsideAll s u n size.bytes tr ∧ DirtyBitsSet u n tr := by
  refine ⟨fun k hk => h.stored _ _ ⟨k, hk, rfl, rfl⟩, fun a ha => h.outside a ?_,
    fun k hk p pte hd => h.dirty _ _ ⟨k, hk, rfl, rfl⟩ p pte hd⟩
  rintro tr' v ⟨j, hj, rfl, -⟩
  exact ha j hj

/-! `save` (spec/46_m.md R253). -/

theorem mem_rangeAccesses {kind : AccessKind} {base : Word} {n : Nat} {x : Access} :
    x ∈ rangeAccesses kind base n ↔ ∃ k, k < n ∧ x = (base + BitVec.ofNat 32 (4 * k), kind, .word) := by
  simp [rangeAccesses, eq_comm]

theorem rangeEntries_iff {s : State} {kind : AccessKind} {base : Word} {n p : Nat} :
    p ∈ s.rangeEntries base n ↔ p ∈ s.entriesUsed (rangeAccesses kind base n) := by
  simp only [State.mem_rangeEntries, State.mem_entriesUsed, mem_rangeAccesses]
  constructor
  · rintro ⟨k, hk, hp⟩
    exact ⟨_, ⟨k, hk, rfl⟩, hp⟩
  · rintro ⟨_, ⟨k, hk, rfl⟩, hp⟩
    exact ⟨k, hk, hp⟩

theorem exec_save {s : State} {first last dest : RegNum} {n : Nat} (hn : n = rangeCount first last)
    (h : ∀ k, k < n → ∃ tr, s.locate (s.reg dest + BitVec.ofNat 32 (4 * k)) .write .word = .ok tr) :
    exec (.save first last dest) s =
      s.finish (forUp (saveWord (s.rangeEntries (s.reg dest) n) (s.reg dest) first) n 0 s) := by
  have hchecks := forUp_checks (f := s.saveCheck (s.reg dest)) fun k hk => State.checkWrite_ok.2 (h k hk)
  rw [exec, execSave, State.saveRange, ← hn, hchecks]
  rfl

/-- Settles O49: a sequence of word writes, each of a register that no write changes. -/
theorem saveRange : Obligations.SaveRange := by
  unfold Obligations.SaveRange
  intro s first last dest n tr used hn hused hallowed
  have hexec := exec_save hn fun k hk => ⟨tr k, hallowed k hk⟩
  have heven : ∀ p ∈ used, p % 2 = 0 := hused ▸ fun _ => State.entriesUsed_even
  have hva : ∀ k, k < n → UsesEntry s used (s.reg dest + BitVec.ofNat 32 (4 * k)) := fun k hk =>
    hused ▸ usesEntry_of_mem (mem_rangeAccesses.2 ⟨k, hk, rfl⟩)
  have hpass := fun k hk => tracksPass_write (val := fun k _ => s.reg (first + BitVec.ofNat 5 k))
    (f := saveWord (s.rangeEntries (s.reg dest) n) (s.reg dest) first) heven
    (fun _ => hused ▸ rangeEntries_iff) (hva k hk) (hallowed k hk) fun t ht => by
      rw [saveWord, rangeReg, ht.frame]
      rfl
  obtain ⟨hkeep, hchange⟩ := exec_sequence hexec hpass rfl
  refine ⟨fun hapart => ?_, hkeep, hchange⟩
  have hwrite : ∀ k, k < n → WriteApart s used .word (tr k) := fun k hk =>
    ⟨⟨_, hallowed k hk, hva k hk⟩, (hapart k hk).2⟩
  obtain ⟨t, ht, honly, hsame, -⟩ := hkeep (not_writesChangeEntry hwrite)
  have hwrote := wrote_afterWrites (val := fun k _ => s.reg (first + BitVec.ofNat 5 k)) hwrite (fun _ _ _ => rfl)
    (fun j k hjk hk => .inl ((hapart k hk).1 j (by omega) (by omega))) n le_rfl
  exact ⟨t, ht, honly, (hwrote.sameMain hsame).sequence⟩

/-! Single bytes. -/

theorem read_of_load_byte {m : Memory} {a : Nat} {v : Word} (h : Memory.load m a .byte = zeroExtended .byte v) :
    Memory.read m a = v.setWidth 8 := by
  have hread : Memory.read m a = (Memory.load m a .byte).extractLsb' 0 8 := by
    apply BitVec.eq_of_toNat_eq
    simp only [Memory.load, BitVec.extractLsb'_toNat, Nat.shiftRight_zero, BitVec.toNat_setWidth]
    omega
  rw [hread, h, extractLsb'_zeroExtended_byte]

theorem setWidth_load_byte (m : Memory) (a : Nat) : (Memory.load m a .byte).setWidth 8 = Memory.read m a :=
  (read_of_load_byte (zeroExtended_load m a .byte).symm).symm

theorem apart_one_iff {a b : Nat} : Apart a 1 b 1 ↔ a ≠ b := by
  unfold Apart
  omega

/-! `fill` (R244). -/

theorem mem_fillAccesses {a : Word} {n : Nat} {x : Access} :
    x ∈ fillAccesses a n ↔ ∃ k, k < n ∧ x = (a + BitVec.ofNat 32 k, .write, .byte) := by
  simp [fillAccesses, eq_comm]

theorem fillEntries_iff {s : State} {a : Word} {n p : Nat} :
    p ∈ s.bufferEntries a n ↔ p ∈ s.entriesUsed (fillAccesses a n) := by
  simp only [State.mem_bufferEntries, State.mem_entriesUsed, mem_fillAccesses]
  constructor
  · rintro ⟨k, hk, hp⟩
    exact ⟨_, ⟨k, hk, rfl⟩, hp⟩
  · rintro ⟨_, ⟨k, hk, rfl⟩, hp⟩
    exact ⟨k, hk, hp⟩

theorem exec_fill {s : State} {buff len byte : RegNum} {n : Nat} (hn : n = (s.reg len).toNat)
    (h : ∀ k, k < n → ∃ tr, s.locate (s.reg buff + BitVec.ofNat 32 k) .write .byte = .ok tr) :
    exec (.fill buff len byte) s =
      s.finish (forUp (fillByte (s.bufferEntries (s.reg buff) n) (s.reg buff) (s.reg byte)) n 0 s) := by
  have hchecks := forUp_checks (f := s.fillCheck (s.reg buff)) fun k hk => State.checkWrite_ok.2 (h k hk)
  rw [exec, execFill, State.fillBuffer, ← hn, hchecks]
  rfl

/-- Settles O53: a sequence of byte writes, all of one value, so that a byte may be written twice. -/
theorem fillBuffer : Obligations.FillBuffer := by
  unfold Obligations.FillBuffer
  intro s buff len byte n tr used hn hused hallowed
  have hexec := exec_fill (byte := byte) hn fun k hk => ⟨tr k, hallowed k hk⟩
  have heven : ∀ p ∈ used, p % 2 = 0 := hused ▸ fun _ => State.entriesUsed_even
  have hva : ∀ k, k < n → UsesEntry s used (s.reg buff + BitVec.ofNat 32 k) := fun k hk =>
    hused ▸ usesEntry_of_mem (mem_fillAccesses.2 ⟨k, hk, rfl⟩)
  have hpass := fun k hk => tracksPass_write (val := fun _ _ => s.reg byte)
    (f := fillByte (s.bufferEntries (s.reg buff) n) (s.reg buff) (s.reg byte)) heven (fun _ => hused ▸ fillEntries_iff)
    (hva k hk) (hallowed k hk) fun t _ => rfl
  obtain ⟨hkeep, hchange⟩ := exec_sequence hexec hpass rfl
  refine ⟨fun hapart => ?_, hkeep, hchange⟩
  have hwrite : ∀ k, k < n → WriteApart s used .byte (tr k) := fun k hk =>
    ⟨⟨_, hallowed k hk, hva k hk⟩, hapart k hk⟩
  obtain ⟨t, ht, honly, hsame, -⟩ := hkeep (not_writesChangeEntry hwrite)
  have hwrote := wrote_afterWrites (val := fun _ _ => s.reg byte) (value := fun _ => s.reg byte) hwrite
    (fun _ _ _ => rfl)
    (fun j k _ _ => (ne_or_eq (tr j).phys (tr k).phys).imp apart_one_iff.2 fun h => ⟨h, rfl⟩) n le_rfl
  obtain ⟨hstored, houtside, hdirty⟩ := (hwrote.sameMain hsame).sequence
  exact ⟨t, ht, honly, fun k hk => read_of_load_byte (hstored k hk), houtside, hdirty⟩

/-! `copy` and `swap` (R242, R243, U7). -/

theorem mem_copyAccesses {a b : Word} {n : Nat} {x : Access} : x ∈ copyAccesses a b n ↔
    ∃ k, k < n ∧ (x = (a + BitVec.ofNat 32 k, .read, .byte) ∨ x = (b + BitVec.ofNat 32 k, .write, .byte)) := by
  simp [copyAccesses]

theorem mem_swapAccesses {a b : Word} {n : Nat} {x : Access} : x ∈ swapAccesses a b n ↔
    ∃ k, k < n ∧ (x = (a + BitVec.ofNat 32 k, .read, .byte) ∨ x = (b + BitVec.ofNat 32 k, .read, .byte) ∨
      x = (a + BitVec.ofNat 32 k, .write, .byte) ∨ x = (b + BitVec.ofNat 32 k, .write, .byte)) := by
  simp [swapAccesses]

theorem copyEntries_iff {s : State} {a b : Word} {n p : Nat} :
    p ∈ s.bufferEntries a n ++ s.bufferEntries b n ↔ p ∈ s.entriesUsed (copyAccesses a b n) := by
  simp only [List.mem_append, State.mem_bufferEntries, State.mem_entriesUsed, mem_copyAccesses]
  constructor
  · rintro (⟨k, hk, hp⟩ | ⟨k, hk, hp⟩)
    · exact ⟨_, ⟨k, hk, .inl rfl⟩, hp⟩
    · exact ⟨_, ⟨k, hk, .inr rfl⟩, hp⟩
  · rintro ⟨_, ⟨k, hk, rfl | rfl⟩, hp⟩
    · exact .inl ⟨k, hk, hp⟩
    · exact .inr ⟨k, hk, hp⟩

theorem swapEntries_iff {s : State} {a b : Word} {n p : Nat} :
    p ∈ s.bufferEntries a n ++ s.bufferEntries b n ↔ p ∈ s.entriesUsed (swapAccesses a b n) := by
  simp only [List.mem_append, State.mem_bufferEntries, State.mem_entriesUsed, mem_swapAccesses]
  constructor
  · rintro (⟨k, hk, hp⟩ | ⟨k, hk, hp⟩)
    · exact ⟨_, ⟨k, hk, .inl rfl⟩, hp⟩
    · exact ⟨_, ⟨k, hk, .inr (.inl rfl)⟩, hp⟩
  · rintro ⟨_, ⟨k, hk, rfl | rfl | rfl | rfl⟩, hp⟩
    · exact .inl ⟨k, hk, hp⟩
    · exact .inr ⟨k, hk, hp⟩
    · exact .inl ⟨k, hk, hp⟩
    · exact .inr ⟨k, hk, hp⟩

/-- The physical address at which the model looks for overlaps is that of the access. -/
theorem State.physAddr_of_locate {s : State} {va : Word} {kind : AccessKind} {size : Size} {tr : Translation}
    (h : s.locate va kind size = .ok tr) : s.physAddr va = tr.phys := by
  unfold State.physAddr
  cases hmmu : s.mmuOn
  · rw [State.locate_mmuOff_ok hmmu h]
    rfl
  · obtain ⟨-, -, hphys, -⟩ := State.translate_ok (State.locate_mmuOn_ok hmmu h)
    exact hphys.symm

theorem anyBelow_eq_true {p : Nat → Bool} {n : Nat} : anyBelow p n = true ↔ ∃ k, k < n ∧ p k = true := by
  rw [← Bool.not_eq_false, anyBelow_eq_false]
  simp

theorem State.buffersOverlap_iff {s : State} {a b : Word} {n : Nat} {f g : Nat → Nat}
    (hf : ∀ k, k < n → s.physAddr (a + BitVec.ofNat 32 k) = f k)
    (hg : ∀ k, k < n → s.physAddr (b + BitVec.ofNat 32 k) = g k) :
    s.buffersOverlap a b n = true ↔ ∃ j k, j < n ∧ k < n ∧ f j = g k := by
  simp only [State.buffersOverlap, anyBelow_eq_true, beq_iff_eq, addrUp]
  constructor
  · rintro ⟨j, hj, k, hk, heq⟩
    exact ⟨j, k, hj, hk, by rwa [hf j hj, hg k hk] at heq⟩
  · rintro ⟨j, k, hj, hk, heq⟩
    exact ⟨j, hj, k, hk, by rw [hf j hj, hg k hk, heq]⟩

theorem State.refuseOverlap_ok {s : State} {a b : Word} {n : Nat} (h : ¬ s.buffersOverlap a b n = true) :
    s.refuseOverlap a b n = .ok () := if_neg h

theorem State.refuseOverlap_error {s : State} {a b : Word} {n : Nat} (h : s.buffersOverlap a b n = true) :
    s.refuseOverlap a b n = .error (.refuse .overlappingBuffers) := if_pos h

/-- A byte that no write stores and that lies in no entry in use is as it was. -/
theorem Wrote.load_apart {s u : State} {used : List Nat} {W : Translation → Word → Prop} {a : Nat}
    (h : Wrote s u .byte W) (hW : ∀ tr v, W tr v → WriteApart s used .byte tr ∧ tr.phys ≠ a)
    (ha : ∀ p ∈ used, Apart a 1 p 2) : Memory.load u.main a .byte = Memory.load s.main a .byte := by
  refine Memory.load_congr fun x hx hx' => h.outside x fun tr v hw => ?_
  obtain ⟨hwrite, hne⟩ := hW tr v hw
  simp only [Size.bytes] at hx' ⊢
  refine ⟨by unfold Outside; omega, fun p pte hd => ?_⟩
  have hp := ha p (hwrite.dirty hd).1
  unfold Apart at hp
  unfold Outside
  omega

section CopyChecks

variable {s : State} {src dest len : RegNum} {n : Nat} (hn : n = (s.reg len).toNat)
  (h : ∀ k, k < n → s.copyCheck (s.reg src) (s.reg dest) k () = .ok ())
include hn h

theorem exec_copy (hoverlap : ¬ s.buffersOverlap (s.reg src) (s.reg dest) n = true) :
    exec (.copy src dest len) s = s.finish (forUp
      (copyByte (s.bufferEntries (s.reg src) n ++ s.bufferEntries (s.reg dest) n) (s.reg src) (s.reg dest)) n 0 s) := by
  rw [exec, execCopy, State.copyBuffer, ← hn, forUp_checks h, State.refuseOverlap_ok hoverlap]
  rfl

theorem exec_copy_overlap (hoverlap : s.buffersOverlap (s.reg src) (s.reg dest) n = true) :
    exec (.copy src dest len) s = .refused .overlappingBuffers := by
  rw [exec, execCopy, State.copyBuffer, ← hn, forUp_checks h, State.refuseOverlap_error hoverlap]
  rfl

end CopyChecks

/-- Settles O51: a sequence of byte writes, each of a byte read from the state it has reached, which is the byte that
was there at first where no write or dirty bit comes near it. -/
theorem copyBuffer : Obligations.CopyBuffer := by
  unfold Obligations.CopyBuffer
  intro s src dest len n f tr used hn hused hallowed
  have hread : ∀ k, k < n → s.locate (s.reg src + BitVec.ofNat 32 k) .read .byte = .ok ⟨f k, none⟩ :=
    fun k hk => (hallowed k hk).1
  have hwritable : ∀ k, k < n → s.locate (s.reg dest + BitVec.ofNat 32 k) .write .byte = .ok (tr k) :=
    fun k hk => (hallowed k hk).2
  have hcheck : ∀ k, k < n → s.copyCheck (s.reg src) (s.reg dest) k () = .ok () := by
    intro k hk
    rw [State.copyCheck, addrUp, addrUp, State.checkRead_ok.2 ⟨_, hread k hk⟩]
    exact State.checkWrite_ok.2 ⟨_, hwritable k hk⟩
  have hoverlap := State.buffersOverlap_iff (fun k hk => State.physAddr_of_locate (hread k hk))
    (fun k hk => State.physAddr_of_locate (hwritable k hk))
  refine ⟨fun hdisjoint => ?_, fun j k hj hk heq => exec_copy_overlap hn hcheck (hoverlap.2 ⟨j, k, hj, hk, heq⟩)⟩
  have hexec := exec_copy hn hcheck (mt hoverlap.1 (by rintro ⟨j, k, hj, hk, heq⟩; exact hdisjoint j k hj hk heq))
  have heven : ∀ p ∈ used, p % 2 = 0 := hused ▸ fun _ => State.entriesUsed_even
  have hsrc : ∀ k, k < n → UsesEntry s used (s.reg src + BitVec.ofNat 32 k) := fun k hk =>
    hused ▸ usesEntry_of_mem (mem_copyAccesses.2 ⟨k, hk, .inl rfl⟩)
  have hdest : ∀ k, k < n → UsesEntry s used (s.reg dest + BitVec.ofNat 32 k) := fun k hk =>
    hused ▸ usesEntry_of_mem (mem_copyAccesses.2 ⟨k, hk, .inr rfl⟩)
  have hpass := fun k hk => tracksPass_write (val := fun k t => Memory.load t.main (f k) .byte)
    (f := copyByte (s.bufferEntries (s.reg src) n ++ s.bufferEntries (s.reg dest) n) (s.reg src) (s.reg dest)) heven
    (fun _ => hused ▸ copyEntries_iff) (hdest k hk) (hwritable k hk) fun t ht => by
      rw [copyByte, addrUp, addrUp, ht.memRead (hsrc k hk) (hread k hk)]
      rfl
  obtain ⟨hkeep, hchange⟩ := exec_sequence hexec hpass rfl
  refine ⟨fun hapart => ?_, fun hk => ?_, hchange⟩
  · have hwrite : ∀ k, k < n → WriteApart s used .byte (tr k) := fun k hk =>
      ⟨⟨_, hwritable k hk, hdest k hk⟩, fun p hp => ((hapart k hk).2 p hp).2⟩
    obtain ⟨t, ht, honly, hsame, -⟩ := hkeep (not_writesChangeEntry hwrite)
    have hwrote := wrote_afterWrites (val := fun k t => Memory.load t.main (f k) .byte)
      (value := fun k => Memory.load s.main (f k) .byte) hwrite (fun k hk hbefore => ?_)
      (fun j k hjk hk => .inl (apart_one_iff.2 ((hapart k hk).1 j (by omega) (by omega)))) n le_rfl
    · obtain ⟨hstored, houtside, hdirty⟩ := (hwrote.sameMain hsame).sequence
      refine ⟨t, ht, honly, fun k hk => ?_, houtside, hdirty⟩
      rw [read_of_load_byte (hstored k hk), setWidth_load_byte]
    · refine hbefore.load_apart ?_ fun p hp => ((hapart k hk).2 p hp).1
      rintro tr' v ⟨j, hj, rfl, -⟩
      exact ⟨hwrite j (by omega), Ne.symm (hdisjoint k j hk (by omega))⟩
  · obtain ⟨t, ht, honly, hsame, -⟩ := hkeep hk
    exact ⟨t, ht, honly, hsame⟩

section SwapChecks

variable {s : State} {buff1 buff2 len : RegNum} {n : Nat} (hn : n = (s.reg len).toNat)
  (h : ∀ k, k < n → s.swapCheck (s.reg buff1) (s.reg buff2) k () = .ok ())
include hn h

theorem exec_swap (hoverlap : ¬ s.buffersOverlap (s.reg buff1) (s.reg buff2) n = true) :
    exec (.swap buff1 buff2 len) s = s.finish (forUp (swapByte
      (s.bufferEntries (s.reg buff1) n ++ s.bufferEntries (s.reg buff2) n) (s.reg buff1) (s.reg buff2)) n 0 s) := by
  rw [exec, execSwap, State.swapBuffers, ← hn, forUp_checks h, State.refuseOverlap_ok hoverlap]
  rfl

theorem exec_swap_overlap (hoverlap : s.buffersOverlap (s.reg buff1) (s.reg buff2) n = true) :
    exec (.swap buff1 buff2 len) s = .refused .overlappingBuffers := by
  rw [exec, execSwap, State.swapBuffers, ← hn, forUp_checks h, State.refuseOverlap_error hoverlap]
  rfl

end SwapChecks

/-- The exchange of two bytes whose four accesses are allowed in `s`, in a state that tracks the exchanges before. -/
theorem tracksPass_swap {s : State} {used watched : List Nat} {tr1 tr2 : Nat → Translation} {a b : Word} {k : Nat}
    (heven : ∀ p ∈ used, p % 2 = 0) (hwatched : ∀ p, p ∈ watched ↔ p ∈ used)
    (ha : UsesEntry s used (addrUp a k)) (hb : UsesEntry s used (addrUp b k))
    (hreadA : s.locate (addrUp a k) .read .byte = .ok ⟨(tr1 k).phys, none⟩)
    (hreadB : s.locate (addrUp b k) .read .byte = .ok ⟨(tr2 k).phys, none⟩)
    (hwriteA : s.locate (addrUp a k) .write .byte = .ok (tr1 k))
    (hwriteB : s.locate (addrUp b k) .write .byte = .ok (tr2 k)) :
    TracksPass s used (s.afterSwaps tr1 tr2)
      (fun k => ChangesUsedEntry (s.afterSwaps tr1 tr2 k) used (tr1 k) .byte
          (Memory.load (s.afterSwaps tr1 tr2 k).main (tr2 k).phys .byte) ∨
        ChangesUsedEntry ((s.afterSwaps tr1 tr2 k).firstSwapped (tr1 k) (tr2 k)) used (tr2 k) .byte
          (Memory.load (s.afterSwaps tr1 tr2 k).main (tr1 k).phys .byte))
      (swapByte watched a b) k := by
  have hpass : ∀ t, Tracks s used (s.afterSwaps tr1 tr2 k) t → swapByte watched a b k t =
      t.memWriteWatching watched (addrUp a k) .byte (Memory.load (s.afterSwaps tr1 tr2 k).main (tr2 k).phys .byte) >>=
        fun t1 => t1.memWriteWatching watched (addrUp b k) .byte
          (Memory.load (s.afterSwaps tr1 tr2 k).main (tr1 k).phys .byte) := by
    intro t ht
    rw [swapByte, ht.memRead ha hreadA, ht.memRead hb hreadB]
    rfl
  refine ⟨fun t ht hkeep => ?_, fun t ht hchange => ?_⟩ <;> rw [hpass t ht]
  · obtain ⟨t1, hfirst, ht1⟩ := ht.write ha heven hwriteA (fun hc => hkeep (.inl hc)) fun p hp => (hwatched p).1 hp
    obtain ⟨t2, hsecond, ht2⟩ := ht1.write hb heven hwriteB (fun hc => hkeep (.inr hc)) fun p hp => (hwatched p).1 hp
    refine ⟨t2, ?_, ht2⟩
    rw [hfirst]
    exact hsecond
  · by_cases hc : ChangesUsedEntry (s.afterSwaps tr1 tr2 k) used (tr1 k) .byte
        (Memory.load (s.afterSwaps tr1 tr2 k).main (tr2 k).phys .byte)
    · rw [ht.refuse ha hwriteA hc fun p hp => (hwatched p).2 hp]
      rfl
    · obtain ⟨t1, hfirst, ht1⟩ := ht.write ha heven hwriteA hc fun p hp => (hwatched p).1 hp
      rw [hfirst]
      exact ht1.refuse hb hwriteB (hchange.resolve_left hc) fun p hp => (hwatched p).2 hp

/-- The writes of the first `m` exchanges: each byte goes to where the other was. -/
def SwapsBelow (s : State) (tr1 tr2 : Nat → Translation) (m : Nat) (tr : Translation) (v : Word) : Prop :=
  ∃ j, j < m ∧ (tr = tr1 j ∧ v = Memory.load s.main (tr2 j).phys .byte ∨
    tr = tr2 j ∧ v = Memory.load s.main (tr1 j).phys .byte)

section Exchanges

variable {s : State} {used : List Nat} {tr1 tr2 : Nat → Translation} {n : Nat}
  (hwrite : ∀ k, k < n → WriteApart s used .byte (tr1 k) ∧ WriteApart s used .byte (tr2 k))

include hwrite in
theorem not_swapsChangeEntry : ¬ SwapsChangeEntry s used tr1 tr2 n := by
  rintro ⟨k, hk, hchange | hchange⟩
  · exact (hwrite k hk).1.keepsEntries hchange
  · exact (hwrite k hk).2.keepsEntries hchange

include hwrite in
/-- Exchanges of bytes that are all different and in no entry in use leave each byte where the other was. -/
theorem wrote_afterSwaps
    (hdistinct : ∀ j k, j < k → k < n → (tr1 j).phys ≠ (tr1 k).phys ∧ (tr2 j).phys ≠ (tr2 k).phys)
    (hdisjoint : ∀ j k, j < n → k < n → (tr1 j).phys ≠ (tr2 k).phys) :
    ∀ m, m ≤ n → Wrote s (s.afterSwaps tr1 tr2 m) .byte (SwapsBelow s tr1 tr2 m) := by
  intro m
  induction m with
  | zero =>
    refine fun _ => (Wrote.refl s .byte).congr fun tr v => ⟨?_, False.elim⟩
    rintro ⟨j, hj, -⟩
    exact Nat.not_lt_zero j hj
  | succ m ih =>
    intro hm
    have hbefore := ih (Nat.le_of_succ_le hm)
    have hW : ∀ tr v, SwapsBelow s tr1 tr2 m tr v → WriteApart s used .byte tr ∧
        tr.phys ≠ (tr1 m).phys ∧ tr.phys ≠ (tr2 m).phys := by
      rintro tr v ⟨j, hj, ⟨rfl, -⟩ | ⟨rfl, -⟩⟩
      · exact ⟨(hwrite j (by omega)).1, (hdistinct j m hj hm).1, hdisjoint j m (by omega) hm⟩
      · exact ⟨(hwrite j (by omega)).2, Ne.symm (hdisjoint m j hm (by omega)), (hdistinct j m hj hm).2⟩
    have hload1 := hbefore.load_apart (fun tr v hw => ⟨(hW tr v hw).1, (hW tr v hw).2.1⟩) (hwrite m hm).1.2
    have hload2 := hbefore.load_apart (fun tr v hw => ⟨(hW tr v hw).1, (hW tr v hw).2.2⟩) (hwrite m hm).2.2
    have hfirst := hbefore.write (tr := tr1 m) (v := Memory.load s.main (tr2 m).phys .byte)
      (fun tr v hw => (hW tr v hw).1) (hwrite m hm).1 (fun tr v hw => .inl (apart_one_iff.2 (hW tr v hw).2.1))
    have hsecond := hfirst.write (tr := tr2 m) (v := Memory.load s.main (tr1 m).phys .byte)
      (by
        rintro tr v (hw | ⟨rfl, -⟩)
        · exact (hW tr v hw).1
        · exact (hwrite m hm).1)
      (hwrite m hm).2
      (by
        rintro tr v (hw | ⟨rfl, -⟩)
        · exact .inl (apart_one_iff.2 (hW tr v hw).2.2)
        · exact .inl (apart_one_iff.2 (hdisjoint m m hm hm)))
    rw [State.afterSwaps, State.swapped, State.firstSwapped, hload1, hload2]
    refine hsecond.congr fun tr v => ?_
    simp only [SwapsBelow, Nat.lt_succ_iff_lt_or_eq, or_and_right, exists_or, exists_eq_left, or_assoc]

end Exchanges

/-- Settles O52: a sequence of exchanges, each of two bytes read from the state it has reached. -/
theorem swapBuffers : Obligations.SwapBuffers := by
  unfold Obligations.SwapBuffers
  intro s buff1 buff2 len n tr1 tr2 used hn hused hallowed
  have hcheck : ∀ k, k < n → s.swapCheck (s.reg buff1) (s.reg buff2) k () = .ok () := by
    intro k hk
    obtain ⟨hreadA, hreadB, hwriteA, hwriteB⟩ := hallowed k hk
    rw [State.swapCheck, addrUp, addrUp, State.checkRead_ok.2 ⟨_, hreadA⟩, State.checkRead_ok.2 ⟨_, hreadB⟩,
      State.checkWrite_ok.2 ⟨_, hwriteA⟩]
    exact State.checkWrite_ok.2 ⟨_, hwriteB⟩
  have hoverlap := State.buffersOverlap_iff (fun k hk => State.physAddr_of_locate (hallowed k hk).2.2.1)
    (fun k hk => State.physAddr_of_locate (hallowed k hk).2.2.2)
  refine ⟨fun hdisjoint => ?_, fun j k hj hk heq => exec_swap_overlap hn hcheck (hoverlap.2 ⟨j, k, hj, hk, heq⟩)⟩
  have hexec := exec_swap hn hcheck (mt hoverlap.1 (by rintro ⟨j, k, hj, hk, heq⟩; exact hdisjoint j k hj hk heq))
  have heven : ∀ p ∈ used, p % 2 = 0 := hused ▸ fun _ => State.entriesUsed_even
  have hva1 : ∀ k, k < n → UsesEntry s used (s.reg buff1 + BitVec.ofNat 32 k) := fun k hk =>
    hused ▸ usesEntry_of_mem (mem_swapAccesses.2 ⟨k, hk, .inl rfl⟩)
  have hva2 : ∀ k, k < n → UsesEntry s used (s.reg buff2 + BitVec.ofNat 32 k) := fun k hk =>
    hused ▸ usesEntry_of_mem (mem_swapAccesses.2 ⟨k, hk, .inr (.inl rfl)⟩)
  have hpass := fun k hk => tracksPass_swap heven (fun _ => hused ▸ swapEntries_iff) (hva1 k hk) (hva2 k hk)
    (hallowed k hk).1 (hallowed k hk).2.1 (hallowed k hk).2.2.1 (hallowed k hk).2.2.2
  obtain ⟨hkeep, hchange⟩ := exec_sequence hexec hpass rfl
  refine ⟨fun hapart => ?_, fun hk => ?_, hchange⟩
  · have hwrite : ∀ k, k < n → WriteApart s used .byte (tr1 k) ∧ WriteApart s used .byte (tr2 k) := fun k hk =>
      ⟨⟨⟨_, (hallowed k hk).2.2.1, hva1 k hk⟩, fun p hp => ((hapart k hk).2 p hp).1⟩,
        ⟨⟨_, (hallowed k hk).2.2.2, hva2 k hk⟩, fun p hp => ((hapart k hk).2 p hp).2⟩⟩
    obtain ⟨t, ht, honly, hsame, -⟩ := hkeep (not_swapsChangeEntry hwrite)
    have hwrote := (wrote_afterSwaps hwrite (fun j k hjk hk => (hapart k hk).1 j (by omega) (by omega)) hdisjoint n
      le_rfl).sameMain hsame
    refine ⟨t, ht, honly, fun k hk => ⟨?_, ?_⟩, fun a ha => hwrote.outside a ?_, fun k hk => ?_, fun k hk => ?_⟩
    · rw [read_of_load_byte (hwrote.stored _ _ ⟨k, hk, .inl ⟨rfl, rfl⟩⟩), setWidth_load_byte]
    · rw [read_of_load_byte (hwrote.stored _ _ ⟨k, hk, .inr ⟨rfl, rfl⟩⟩), setWidth_load_byte]
    · rintro tr v ⟨j, hj, ⟨rfl, -⟩ | ⟨rfl, -⟩⟩ <;> obtain ⟨hne1, hne2, hdirty⟩ := ha j hj
      · exact ⟨by simp only [Outside, Size.bytes]; omega, fun p pte hd => hdirty p pte (.inl hd)⟩
      · exact ⟨by simp only [Outside, Size.bytes]; omega, fun p pte hd => hdirty p pte (.inr hd)⟩
    · exact hwrote.dirty _ _ ⟨k, hk, .inl ⟨rfl, rfl⟩⟩
    · exact hwrote.dirty _ _ ⟨k, hk, .inr ⟨rfl, rfl⟩⟩
  · obtain ⟨t, ht, honly, hsame, -⟩ := hkeep hk
    exact ⟨t, ht, honly, hsame⟩

end Sys2Proof.Machine

end


/-! PROOFS. Trap entry and return (spec/60_exceptions.md section 5). -/
section

namespace Sys2Proof.Machine

/-! The frame's two writes. -/

theorem State.vectorEntry_eq (s : State) (v : BitVec 8) :
    s.vectorEntry v = Memory.load s.data (1024 * s.ivtField.toNat + 4 * v.toNat) .word := by
  rw [Nat.mul_comm 1024, Nat.mul_comm 4]
  rfl

@[simp] theorem State.asSupervisor_mmuOn (s : State) : s.asSupervisor.mmuOn = s.mmuOn :=
  psrSupervisor_getLsbD s.psr 29

/-- Where a page's entries stand does not depend on the mode. -/
theorem State.entriesOf_asSupervisor (s : State) (va : Word) (size : Size) :
    s.asSupervisor.entriesOf va size = s.entriesOf va size := by
  have hpdt : s.asSupervisor.pdtField = s.pdtField := extractLsb'_psrSupervisor s.psr (by decide)
  simp only [State.entriesOf, State.asSupervisor_mmuOn, State.pteAddr, State.pde, hpdt]
  rfl

/-- A translation keeps the offset in the page, and the address it starts from is aligned. -/
theorem State.locate_offset {s : State} {va : Word} {kind : AccessKind} {size : Size} {tr : Translation}
    (h : s.locate va kind size = .ok tr) : tr.phys % 4096 = va.toNat % 4096 ∧ va.toNat % size.bytes = 0 := by
  constructor
  · by_cases hmmu : s.mmuOn = true
    · have hphys := (State.translate_ok (State.locate_mmuOn_ok hmmu h)).2.2.1
      rw [hphys, framed_eq (Memory.load_lt s.main _ .half)]
      omega
    · rw [State.locate_mmuOff_ok (Bool.eq_false_of_not_eq_true hmmu) h]
  · by_contra hne
    rw [State.locate_misaligned hne] at h
    cases h

/-- The two words of the frame share no physical byte. -/
theorem frame_apart {s : State} {sp : Word} {tr1 tr2 : Translation} (h1 : s.locate (sp - 4) .write .word = .ok tr1)
    (h2 : s.locate (sp - 8) .write .word = .ok tr2) : Apart tr1.phys 4 tr2.phys 4 := by
  obtain ⟨hoff1, halign1⟩ := State.locate_offset h1
  obtain ⟨hoff2, halign2⟩ := State.locate_offset h2
  simp only [Size.bytes] at halign1 halign2
  unfold Apart
  bv_omega

/-- Where both writes are allowed, the frame is pushed by the one and the other. -/
theorem State.pushFrame_of_ok {s : State} {tr1 tr2 : Translation} {savePc : Word}
    (h1 : s.asSupervisor.locate (s.ssp - 4) .write .word = .ok tr1)
    (h2 : s.asSupervisor.locate (s.ssp - 8) .write .word = .ok tr2) :
    s.pushFrame savePc = (s.asSupervisor.written tr1 .word s.psr).memWrite (s.ssp - 8) .word savePc := by
  have hcheck1 := State.checkWrite_ok.2 ⟨tr1, h1⟩
  have hcheck2 := State.checkWrite_ok.2 ⟨tr2, h2⟩
  have hwrite := State.memWrite_of_ok (v := s.psr) h1
  unfold State.asSupervisor at hcheck1 hcheck2 hwrite
  simp only [State.pushFrame, hcheck1, hcheck2, hwrite]
  rfl

/-- A trap entry whose frame is pushed. -/
theorem State.trapEntry_of_push {s f : State} {k : TrapKind} {savePc : Word} (hk : ¬ (k = .fault ∧ s.inFault = true))
    (h : s.pushFrame savePc = .ok f) (v : BitVec 8) :
    s.trapEntry k v savePc = { s with
      main := f.main
      inFault := s.inFault || decide (k = .fault)
      ssp := s.ssp - 8
      psr := k.enterPsr s.psr
      pc := Memory.load s.data (1024 * s.ivtField.toNat + 4 * v.toNat) .word } := by
  rw [← State.vectorEntry_eq, State.trapEntry, if_neg hk, h]
  dsimp only
  rw [State.pushFrame_frame h]

/-- The writes of the frame. -/
def FrameWrites (s : State) (tr1 tr2 : Translation) (savePc : Word) (tr : Translation) (v : Word) : Prop :=
  tr = tr1 ∧ v = s.psr ∨ tr = tr2 ∧ v = savePc

/-- The frame is written where it is not over the page table entries that map it. -/
theorem State.pushFrame_wrote {s : State} {tr1 tr2 : Translation} (savePc : Word)
    (h1 : s.asSupervisor.locate (s.ssp - 4) .write .word = .ok tr1)
    (h2 : s.asSupervisor.locate (s.ssp - 8) .write .word = .ok tr2)
    (hapart : ∀ p, (p ∈ s.entriesOf (s.ssp - 4) .word ∨ p ∈ s.entriesOf (s.ssp - 8) .word) →
      Apart tr1.phys 4 p 2 ∧ Apart tr2.phys 4 p 2) :
    ∃ f, s.pushFrame savePc = .ok f ∧ Wrote s.asSupervisor f .word (FrameWrites s tr1 tr2 savePc) := by
  let used := s.entriesOf (s.ssp - 4) .word ++ s.entriesOf (s.ssp - 8) .word
  have hused : ∀ p ∈ used, Apart tr1.phys 4 p 2 ∧ Apart tr2.phys 4 p 2 := fun p hp =>
    hapart p (List.mem_append.1 hp)
  have heven : ∀ p ∈ used, p % 2 = 0 := fun p hp =>
    (List.mem_append.1 hp).elim State.entriesOf_even State.entriesOf_even
  have hentry : ∀ va, (∀ p ∈ s.entriesOf va .word, p ∈ used) → UsesEntry s.asSupervisor used va :=
    fun va hva hmmu => hva _ (s.entriesOf_asSupervisor va .word ▸ State.pteAddr_mem_entriesOf hmmu va .word)
  have huses1 := hentry (s.ssp - 4) fun p hp => List.mem_append.2 (.inl hp)
  have huses2 := hentry (s.ssp - 8) fun p hp => List.mem_append.2 (.inr hp)
  have hfirst : WriteApart s.asSupervisor used .word tr1 := ⟨⟨_, h1, huses1⟩, fun p hp => (hused p hp).1⟩
  have hsecond : WriteApart s.asSupervisor used .word tr2 := ⟨⟨_, h2, huses2⟩, fun p hp => (hused p hp).2⟩
  obtain ⟨t, ht, htracks⟩ := (Tracks.refl s.asSupervisor used).write huses1 heven h1 (v := s.psr)
    hfirst.keepsEntries (watched := []) (fun _ h => by cases h)
  obtain ⟨f, hf, hftracks⟩ := htracks.write huses2 heven h2 (v := savePc) hsecond.keepsEntries (watched := [])
    (fun _ h => by cases h)
  have hpush : s.pushFrame savePc = .ok f := by
    rw [State.pushFrame_of_ok h1 h2]
    rw [State.memWriteWatching_nil, State.memWrite_of_ok h1] at ht
    cases ht
    exact hf
  have hone := ((Wrote.refl s.asSupervisor .word).write (fun _ _ h => h.elim) hfirst (v := s.psr)
    fun _ _ h => h.elim).congr (W' := fun tr v => tr = tr1 ∧ v = s.psr) fun _ _ => (false_or _).symm.to_iff
  have htwo := hone.write (fun tr v h => h.1 ▸ hfirst) hsecond (v := savePc)
    fun tr v h => .inl (h.1 ▸ frame_apart h1 h2)
  exact ⟨f, hpush, htwo.sameMain hftracks.same⟩

/-- What the frame leaves in main memory. -/
theorem Wrote.frame {s f : State} {tr1 tr2 : Translation} {savePc : Word}
    (h : Wrote s.asSupervisor f .word (FrameWrites s tr1 tr2 savePc)) :
    Memory.load f.main tr1.phys .word = s.psr ∧ Memory.load f.main tr2.phys .word = savePc ∧
      (∀ p pte, (tr1.dirty = some (p, pte) ∨ tr2.dirty = some (p, pte)) → Memory.load f.main p .half = pte) ∧
      ∀ a, Outside a tr1.phys 4 → Outside a tr2.phys 4 →
        (∀ p pte, (tr1.dirty = some (p, pte) ∨ tr2.dirty = some (p, pte)) → Outside a p 2) →
        Memory.read f.main a = Memory.read s.main a := by
  have hpsr : FrameWrites s tr1 tr2 savePc tr1 s.psr := .inl ⟨rfl, rfl⟩
  have hpc : FrameWrites s tr1 tr2 savePc tr2 savePc := .inr ⟨rfl, rfl⟩
  refine ⟨h.stored tr1 s.psr hpsr, h.stored tr2 savePc hpc, ?_, fun a ha1 ha2 hdirty => h.outside a fun tr v hw => ?_⟩
  · rintro p pte (hd | hd)
    · exact h.dirty tr1 s.psr hpsr p pte hd
    · exact h.dirty tr2 savePc hpc p pte hd
  · rcases hw with ⟨rfl, -⟩ | ⟨rfl, -⟩
    · exact ⟨ha1, fun p pte hd => hdirty p pte (.inl hd)⟩
    · exact ⟨ha2, fun p pte hd => hdirty p pte (.inr hd)⟩

/-! With the MMU off and room on the stack. -/

section Plain

variable {s : State} (hmmu : s.mmuOn = false) (halign : s.ssp.toNat % 4 = 0) (hroom : 8 ≤ s.ssp.toNat)
  (hinside : s.ssp.toNat ≤ 2 ^ 24)
include hmmu halign hroom hinside

theorem State.locate_frame (kind : AccessKind) :
    s.asSupervisor.locate (s.ssp - 4) kind .word = .ok { phys := s.ssp.toNat - 4, dirty := none } ∧
      s.asSupervisor.locate (s.ssp - 8) kind .word = .ok { phys := s.ssp.toNat - 8, dirty := none } := by
  have h4 : (s.ssp - 4).toNat = s.ssp.toNat - 4 := by bv_omega
  have h8 : (s.ssp - 8).toNat = s.ssp.toNat - 8 := by bv_omega
  have hoff : s.asSupervisor.mmuOn = false := by rw [State.asSupervisor_mmuOn, hmmu]
  rw [← h4, ← h8]
  exact ⟨State.locate_plain (by simp only [Size.bytes]; omega) (by simp only [Size.bytes]; omega) hoff,
    State.locate_plain (by simp only [Size.bytes]; omega) (by simp only [Size.bytes]; omega) hoff⟩

theorem State.trapEntry_plain {k : TrapKind} (hk : ¬ (k = .fault ∧ s.inFault = true)) (v : BitVec 8) (savePc : Word) :
    ∃ m : Memory,
      s.trapEntry k v savePc = { s with
        main := m
        inFault := s.inFault || decide (k = .fault)
        ssp := s.ssp - 8
        psr := k.enterPsr s.psr
        pc := Memory.load s.data (1024 * s.ivtField.toNat + 4 * v.toNat) .word } ∧
      Memory.load m (s.ssp.toNat - 4) .word = s.psr ∧ Memory.load m (s.ssp.toNat - 8) .word = savePc ∧
      ∀ a, Outside a (s.ssp.toNat - 8) 8 → Memory.read m a = Memory.read s.main a := by
  obtain ⟨h1, h2⟩ := State.locate_frame hmmu halign hroom hinside .write
  obtain ⟨f, hpush, hwrote⟩ := State.pushFrame_wrote savePc h1 h2 fun p hp => by
    rw [State.entriesOf_mmuOff hmmu, State.entriesOf_mmuOff hmmu] at hp
    simp at hp
  obtain ⟨hpsr, hpc, -, houtside⟩ := hwrote.frame
  refine ⟨f.main, State.trapEntry_of_push hk hpush v, hpsr, hpc, fun a ha => ?_⟩
  unfold Outside at ha houtside
  dsimp only at houtside
  exact houtside a (by omega) (by omega) nofun

end Plain

/-- Settles O19: the frame is two writes by `Wrote`, its words apart by `frame_apart`. -/
theorem trapEntryEffects : Obligations.TrapEntryEffects := by
  refine ⟨fun s k v savePc hmmu halign hroom hinside hk =>
    State.trapEntry_plain hmmu halign hroom hinside hk v savePc, ?_⟩
  intro s k v savePc tr1 tr2 hk h1 h2 hapart
  obtain ⟨f, hpush, hwrote⟩ := State.pushFrame_wrote savePc h1 h2 hapart
  exact ⟨f.main, State.trapEntry_of_push hk hpush v, hwrote.frame⟩

/-- The priority after a trap entry: an interrupt's own, else the one before. -/
theorem TrapKind.priority_enterPsr (k : TrapKind) (s : State) : (k.enterPsr s.psr).extractLsb' 26 3 =
    (match k with | .interrupt p => p | .fault => s.priority | .trap => s.priority) := by
  cases k with
  | interrupt p => exact priority_psrWithPriority _ p
  | fault => exact extractLsb'_psrSupervisor _ (by decide)
  | trap => exact extractLsb'_psrSupervisor _ (by decide)

/-- Settles O20: the entry that is made, field by field. -/
theorem trapEntryFrame : Obligations.TrapEntryFrame := by
  intro s k v savePc hne
  have hsup := State.trapEntry_supervisor hne
  obtain hdouble | ⟨f, -, -, h⟩ := s.trapEntry_cases k v savePc
  · exact absurd hdouble hne
  clear hne
  rw [h] at hsup ⊢
  clear h
  exact ⟨hsup, k.priority_enterPsr s, k.getLsbD_enterPsr s.psr (i := 30) (by decide) (by decide),
    k.getLsbD_enterPsr s.psr (i := 29) (by decide) (by decide), k.extractLsb'_enterPsr _ (by decide),
    k.extractLsb'_enterPsr _ (by decide), k.extractLsb'_enterPsr _ (by decide), rfl, rfl, rfl, rfl, rfl, rfl, rfl,
    rfl, rfl, rfl, rfl⟩

/-! The return. -/

theorem exec_sysret {s : State} (h : s.supervisor = true) : exec .sysret s = s.finish s.trapReturn := by
  have hexec : exec .sysret s = s.finish (s.privileged s.trapReturn) := rfl
  rw [hexec, State.privileged, if_pos h]

theorem State.trapReturn_of_ok {s : State} {tr1 tr2 : Translation} (h1 : s.locate s.ssp .read .word = .ok tr1)
    (h2 : s.locate (s.ssp + 4) .read .word = .ok tr2) :
    s.trapReturn = .ok { s with
      pc := Memory.load s.main tr1.phys .word
      psr := Memory.load s.main tr2.phys .word
      ssp := s.ssp + 8
      inFault := false } := by
  rw [State.trapReturn, State.memRead_of_ok h1, State.memRead_of_ok h2]
  rfl

/-- Settles O60: the two pops are reads at the supervisor stack pointer and one word above. -/
theorem systemReturn : Obligations.SystemReturn := by
  intro s hsup
  refine ⟨fun tr1 tr2 h1 h2 => ?_, fun e h1 => ?_, fun tr1 e h1 h2 => ?_⟩
  · rw [exec_sysret hsup, State.trapReturn_of_ok h1 h2]
    rfl
  · rw [TakesFault, exec_sysret hsup, State.trapReturn, State.memRead_of_error h1]
    rfl
  · rw [TakesFault, exec_sysret hsup, State.trapReturn, State.memRead_of_ok h1, State.memRead_of_error h2]
    rfl

/-- Settles O21: `sysret` reads back the two words of the frame. -/
theorem trapThenReturn : Obligations.TrapThenReturn := by
  intro s k v savePc hmmu halign hroom hinside hk
  obtain ⟨m, hentry, hpsr, hpc, -⟩ := State.trapEntry_plain hmmu halign hroom hinside hk v savePc
  let t := s.trapEntry k v savePc
  have hssp : t.ssp = s.ssp - 8 := congrArg State.ssp hentry
  have hmain : t.main = m := congrArg State.main hentry
  have hpsrt : t.psr = k.enterPsr s.psr := congrArg State.psr hentry
  have hsup : t.supervisor = true := by
    rw [State.supervisor, hpsrt, k.getLsbD_enterPsr s.psr (by decide) (by decide), if_pos rfl]
  have hoff : t.mmuOn = false := by
    rw [State.mmuOn, hpsrt, k.getLsbD_enterPsr s.psr (by decide) (by decide), if_neg (by decide)]
    exact hmmu
  have h8 : t.ssp.toNat = s.ssp.toNat - 8 := by rw [hssp]; bv_omega
  have h4 : (t.ssp + 4).toNat = s.ssp.toNat - 4 := by rw [hssp]; bv_omega
  have h1 := State.locate_plain (s := t) (va := t.ssp) (kind := .read) (size := .word)
    (by simp only [Size.bytes]; omega) (by simp only [Size.bytes]; omega) hoff
  have h2 := State.locate_plain (s := t) (va := t.ssp + 4) (kind := .read) (size := .word)
    (by simp only [Size.bytes]; omega) (by simp only [Size.bytes]; omega) hoff
  have hback : s.ssp - 8 + 8 = s.ssp := by bv_omega
  change exec .sysret t = .next { s with pc := savePc, inFault := false, main := t.main }
  rw [exec_sysret hsup, State.trapReturn_of_ok h1 h2, State.finish_ok]
  simp only [h8, h4, hmain, hpsr, hpc]
  rw [show t = _ from hentry]
  simp only [hback]

/-! Double faults. -/

/-- A trap entry one of whose pushes a check stops is a double fault. -/
theorem State.trapEntry_of_locate_error {s : State} {e : Stop} (k : TrapKind) (v : BitVec 8) (savePc : Word)
    (h : s.asSupervisor.locate (s.ssp - 4) .write .word = .error e ∨
      s.asSupervisor.locate (s.ssp - 8) .write .word = .error e) : s.trapEntry k v savePc = s.doubleFault := by
  obtain hdouble | ⟨f, -, hpush, -⟩ := s.trapEntry_cases k v savePc
  · exact hdouble
  · unfold State.pushFrame at hpush
    obtain ⟨_, hcheck1, hpush⟩ := except_bind_ok hpush
    obtain ⟨_, hcheck2, -⟩ := except_bind_ok hpush
    obtain ⟨tr1, h1⟩ := State.checkWrite_ok.1 hcheck1
    obtain ⟨tr2, h2⟩ := State.checkWrite_ok.1 hcheck2
    rcases h with h | h
    · cases h1.symm.trans h
    · cases h2.symm.trans h

/-- A supervisor stack pointer that is misaligned, below 8 or above the end of main memory stops a push. -/
theorem State.locate_frame_error {s : State} {sp : Word}
    (h : sp.toNat % 4 ≠ 0 ∨ sp.toNat < 8 ∨ 2 ^ 24 < sp.toNat) :
    ∃ e, s.locate (sp - 4) .write .word = .error e ∨ s.locate (sp - 8) .write .word = .error e := by
  by_cases halign : sp.toNat % 4 = 0
  · by_cases hlow : sp.toNat = 4
    · exact ⟨_, .inr (State.locate_beyond (by simp only [Size.bytes]; bv_omega) (by simp only [Size.bytes]; bv_omega))⟩
    · exact ⟨_, .inl (State.locate_beyond (by simp only [Size.bytes]; bv_omega) (by simp only [Size.bytes]; bv_omega))⟩
  · exact ⟨_, .inl (State.locate_misaligned (by simp only [Size.bytes]; bv_omega))⟩

theorem settle_ne_fault (s : State) (savePc : Word) (r : Except Stop State) (f : Fault) :
    s.settle savePc r ≠ .fault f := by
  rcases r with (e | e) | t <;> exact nofun

/-- An instruction is never the stop of a halted machine. -/
theorem exec_ne_fault (i : Instr) (s : State) (f : Fault) : exec i s ≠ .fault f := by
  cases hstatus : Instr.writesStatus i with
  | false =>
    obtain ⟨r, hr, -⟩ := exec_plain hstatus s
    rw [hr]
    exact settle_ne_fault _ _ _ _
  | true =>
    have hsettled : ∃ r, exec i s = s.finish r := by
      cases i with
      | syscall rd vector => exact ⟨_, rfl⟩
      | ssreg rs1 => exact ⟨_, rfl⟩
      | sysret => exact ⟨_, rfl⟩
      | _ => cases hstatus
    obtain ⟨r, hr⟩ := hsettled
    rw [hr]
    exact settle_ne_fault _ _ _ _

theorem cycle_ne_fault (s : State) (f : Fault) : s.cycle ≠ .fault f := by
  unfold State.cycle
  split
  · exact settle_ne_fault _ _ _ _
  · unfold State.runWord
    split
    · exact exec_ne_fault _ _ _
    · exact nofun
    · exact settle_ne_fault _ _ _ _
    · exact settle_ne_fault _ _ _ _

theorem halted_iff_step_fault (s : State) : s.halted = true ↔ step s = .fault .halted := by
  unfold step
  split
  next h => exact ⟨fun _ => rfl, fun _ => h⟩
  next h =>
    refine ⟨fun h' => absurd h' h, fun h' => ?_⟩
    split at h'
    · cases h'
    · exact absurd h' (cycle_ne_fault _ _)

/-- Settles O22: a push fails by its checks alone, and no operation answers the fault. -/
theorem doubleFaultHalts : Obligations.DoubleFaultHalts := by
  refine ⟨fun s v savePc h => ?_, fun s k v savePc h => ?_, fun s k v savePc e h =>
    State.trapEntry_of_locate_error k v savePc h, halted_iff_step_fault⟩
  · rw [State.trapEntry, if_pos ⟨rfl, h⟩]
    rfl
  · obtain ⟨e, he⟩ := State.locate_frame_error (s := s.asSupervisor) h
    exact State.trapEntry_of_locate_error k v savePc he

end Sys2Proof.Machine

end


/-! PROOFS. The step, reset, and the instructions on the status of the processor. -/
section

namespace Sys2Proof.Machine

/-! One turn of the execution cycle. -/

theorem State.runs.step_eq {s : State} (h : s.runs) : step s = s.deviceTurn.cycle := by
  obtain ⟨hhalted, hnone⟩ := h
  rw [step, if_neg (by rw [hhalted]; decide), hnone]

theorem State.cycle_of_fetch {s : State} {w : Word} (h : s.fetch = .ok w) : s.cycle = s.advance.runWord w := by
  rw [State.cycle, h]

theorem State.cycle_of_error {s : State} {e : Exc} (h : s.locate s.pc .fetch .word = .error (.raise e)) :
    s.cycle = .next (s.trapEntry .fault e.vector s.pc) := by
  rw [State.cycle, State.fetch_of_error h]
  rfl

theorem State.advance_instrAddr (s : State) : s.advance.instrAddr = s.pc := BitVec.add_sub_cancel s.pc 4

/-- Settles O6. -/
theorem stepRunsDecodedInstruction : Obligations.StepRunsDecodedInstruction := by
  intro s w i hruns hfetch hdecode
  refine ⟨?_, rfl, State.deviceTurn_nil⟩
  rw [hruns.step_eq, State.cycle_of_fetch hfetch, State.runWord, hdecode]

/-- Settles O7: each condition on `pc` names the check that stops the fetch. -/
theorem fetchFaults : Obligations.FetchFaults := by
  intro s hruns
  rw [hruns.step_eq]
  generalize s.deviceTurn = u
  refine ⟨fun halign => ?_, fun halign hbeyond => ?_, fun e htranslate hmmu halign hinside => ?_,
    fun w hfetch hdecode => ?_⟩
  · exact State.cycle_of_error (e := .addressError) (State.locate_misaligned (size := .word) halign)
  · exact State.cycle_of_error (e := .busError)
      (State.locate_beyond (size := .word) halign (by simp only [Size.bytes]; omega))
  · have hlocate := State.locate_translate (size := .word) (kind := .fetch) halign (by simp only [Size.bytes]; omega) hmmu
    exact State.cycle_of_error (hlocate.trans htranslate)
  · rw [State.cycle_of_fetch hfetch, State.runWord, hdecode, ← u.advance_instrAddr]
    rfl

/-! Which request is acknowledged. -/

/-- The fold that `greatestPriority` is gives an upper bound that is reached. -/
theorem foldl_greatest (l : List Request) (level : BitVec 3) :
    let top := l.foldl (fun p r => if p < r.priority then r.priority else p) level
    level ≤ top ∧ (∀ r ∈ l, r.priority ≤ top) ∧ (top = level ∨ ∃ q ∈ l, q.priority = top) := by
  induction l generalizing level with
  | nil => simp
  | cons r l ih =>
    obtain ⟨hle, hall, htop⟩ := ih (if level < r.priority then r.priority else level)
    have hstart : level ≤ (if level < r.priority then r.priority else level) ∧
        r.priority ≤ (if level < r.priority then r.priority else level) := by
      split <;> bv_omega
    refine ⟨BitVec.le_trans hstart.1 hle, ?_, ?_⟩
    · rintro q (_ | ⟨_, hq⟩)
      · exact BitVec.le_trans hstart.2 hle
      · exact hall q hq
    · rcases htop with htop | ⟨q, hq, hqtop⟩
      · by_cases hlt : level < r.priority
        · rw [if_pos hlt] at htop
          refine .inr ⟨r, List.mem_cons_self, ?_⟩
          rw [List.foldl_cons, if_pos hlt, htop]
        · rw [if_neg hlt] at htop
          refine .inl ?_
          rw [List.foldl_cons, if_neg hlt, htop]
      · exact .inr ⟨q, List.mem_cons_of_mem r hq, hqtop⟩

theorem le_greatestPriority {l : List Request} {r : Request} (h : r ∈ l) : r.priority ≤ greatestPriority l :=
  (foldl_greatest l 0).2.1 r h

theorem exists_greatestPriority {l : List Request} (h : l ≠ []) : ∃ q ∈ l, q.priority = greatestPriority l := by
  rcases (foldl_greatest l 0).2.2 with hzero | hq
  · obtain ⟨r, hr⟩ := List.exists_mem_of_ne_nil l h
    have hle := le_greatestPriority hr
    refine ⟨r, hr, ?_⟩
    rw [greatestPriority, hzero] at hle ⊢
    bv_omega
  · exact hq

theorem State.mem_candidates {s : State} {r : Request} :
    r ∈ s.candidates ↔ r ∈ s.pending ∧ s.priority < r.priority := by
  simp [State.candidates]

/-- Among candidates one of the greatest level is chosen. -/
theorem State.chosenRequest_of_candidates {s : State} (h : s.candidates ≠ []) :
    ∃ q, s.chosenRequest = some q ∧ q ∈ s.candidates ∧ q.priority = greatestPriority s.candidates := by
  have hmem : ∀ q, q ∈ s.candidates.filter (fun r => r.priority = greatestPriority s.candidates) ↔
      q ∈ s.candidates ∧ q.priority = greatestPriority s.candidates := by simp
  obtain ⟨g, hg, htop⟩ := exists_greatestPriority h
  unfold State.chosenRequest
  generalize hl : s.candidates.filter (fun r => r.priority = greatestPriority s.candidates) = l at hmem
  match l with
  | [] => exact absurd ((hmem g).2 ⟨hg, htop⟩) List.not_mem_nil
  | [r] => exact ⟨r, rfl, (hmem r).1 List.mem_cons_self⟩
  | r :: r' :: rs =>
    have hindex : Config.interruptDraw s.draws % (r :: r' :: rs).length < (r :: r' :: rs).length :=
      Nat.mod_lt _ (Nat.succ_pos _)
    exact ⟨_, List.getElem?_eq_getElem hindex, (hmem _).1 (List.getElem_mem hindex)⟩

theorem State.chosenRequest_of_nil {s : State} (h : s.candidates = []) : s.chosenRequest = none := by
  rw [State.chosenRequest, h]
  rfl

/-- Settles O8: the chosen candidate is of the greatest level of all pending requests, those below `psr.p` included. -/
theorem interruptAcknowledged : Obligations.InterruptAcknowledged := by
  rintro s hhalted hirq ⟨r, hr, hlevel⟩
  have hnonempty : s.deviceTurn.candidates ≠ [] := List.ne_nil_of_mem (State.mem_candidates.2 ⟨hr, hlevel⟩)
  obtain ⟨q, hchosen, hq, htop⟩ := State.chosenRequest_of_candidates hnonempty
  obtain ⟨hpending, hqlevel⟩ := State.mem_candidates.1 hq
  refine ⟨q, hpending, hqlevel, fun r hr => ?_, ?_⟩
  · by_cases hr' : s.deviceTurn.priority < r.priority
    · rw [htop]
      exact le_greatestPriority (State.mem_candidates.2 ⟨hr, hr'⟩)
    · bv_omega
  · rw [step, if_neg (by rw [hhalted]; decide), State.acknowledge, if_pos hirq, hchosen]

theorem State.acknowledge_of_masked {s : State}
    (h : s.irqEnabled = false ∨ ∀ r ∈ s.pending, r.priority ≤ s.priority) : s.acknowledge = none := by
  unfold State.acknowledge
  rcases h with hirq | hlevel
  · rw [hirq]
    rfl
  · have hnone : s.candidates = [] := by
      refine List.eq_nil_iff_forall_not_mem.2 fun r hr => ?_
      obtain ⟨hpending, hlt⟩ := State.mem_candidates.1 hr
      exact absurd hlt (BitVec.not_lt.2 (hlevel r hpending))
    rw [State.chosenRequest_of_nil hnone]
    split <;> rfl

theorem cycle_pending {s t : State} (h : s.cycle = .next t) : t.pending = s.pending := by
  rcases cycle_next h with ⟨i, hi⟩ | ⟨u, k, v, savePc, rfl | rfl, rfl⟩
  · exact (statusWriters i _ t hi).1
  · exact (State.trapEntry_frame _ k v savePc).2.1
  · exact (State.trapEntry_frame _ k v savePc).2.1

/-- Settles O9: in each of the cases no request is above the level of the processor. -/
theorem interruptsMasked : Obligations.InterruptsMasked := by
  intro s hhalted hmasked
  have hnone : s.deviceTurn.acknowledge = none := by
    refine State.acknowledge_of_masked ?_
    rcases hmasked with hirq | hle | hzero | hseven
    · exact .inl hirq
    · exact .inr hle
    · exact .inr fun r hr => by rw [hzero r hr]; bv_omega
    · exact .inr fun r _ => by rw [hseven]; bv_omega
  have hstep : step s = s.deviceTurn.cycle := State.runs.step_eq ⟨hhalted, hnone⟩
  exact ⟨hstep, fun t ht => cycle_pending (hstep.symm.trans ht)⟩

/-! Reset. -/

theorem resetPsr_fields : State.resetPsr.getLsbD 31 = true ∧ State.resetPsr.getLsbD 30 = false ∧
    State.resetPsr.getLsbD 29 = false ∧ State.resetPsr.extractLsb' 26 3 = 0#3 ∧
    State.resetPsr.extractLsb' 20 6 = 62#6 ∧ State.resetPsr.extractLsb' 12 8 = 255#8 ∧
    State.resetPsr.extractLsb' 0 12 = 0#12 := by decide

/-- Settles O11: `resetWith` is a literal but for its arguments. -/
theorem resetValues : Obligations.ResetValues := by
  intro mainInit dataInit region
  obtain ⟨hsup, hirq, hmmu, hpriority, hivt, hpdt, hres⟩ := resetPsr_fields
  exact ⟨rfl, hsup, hirq, hmmu, hpriority, hivt, hpdt, hres, State.reg_zero _, rfl, rfl, rfl, rfl, rfl, rfl, rfl⟩

/-- The reset over canonical images is well-formed: no request is pending. -/
theorem resetWith_wf {mainInit dataInit : Memory} (hmain : Memory.wf Config.memSize mainInit = true)
    (hdata : Memory.wf Config.dataSize dataInit = true) (region : List (Nat × Nat)) :
    (State.resetWith mainInit dataInit region).wf = true :=
  State.wf_iff.2 ⟨hmain, hdata, rfl⟩

/-- Settles O12. -/
theorem resetCanonical : Obligations.ResetCanonical :=
  ⟨resetWith_wf rfl rfl [], fun _ _ region hmain hdata => resetWith_wf hmain hdata region⟩

/-! Registers. -/

/-- Settles O18. -/
theorem registerAccess : Obligations.RegisterAccess := by
  refine ⟨fun s => ⟨s.reg_zero, fun hsup => ?_, fun huser => ?_⟩,
    fun s v => ⟨s.setReg_zero v, fun hsup => ?_, fun huser => ?_⟩,
    fun s i v hi => ⟨?_, registerFrame_setReg s i v, s.setReg_pc i v, fun hi2 => ?_⟩⟩
  · exact s.reg_two.trans (if_pos hsup)
  · exact s.reg_two.trans (if_neg (by rw [huser]; decide))
  · exact (s.setReg_two v).trans (if_pos hsup)
  · exact (s.setReg_two v).trans (if_neg (by rw [huser]; decide))
  · rw [State.reg_setReg, if_pos ⟨rfl, hi⟩]
  · rw [s.setReg_other hi hi2]
    exact ⟨rfl, rfl⟩

/-! Privilege and the T instructions. -/

theorem takesFault_of_privileged {i : Instr} {s : State} {r : Except Stop State} (huser : s.supervisor = false)
    (hexec : exec i s = s.finish (s.privileged r)) : TakesFault i s .privilegeViolation := by
  rw [TakesFault, hexec, State.privileged, if_neg (by rw [huser]; decide)]
  rfl

/-- Settles O23: each of the ten begins with the check of the mode. -/
theorem privilegedInUserMode : Obligations.PrivilegedInUserMode := by
  refine ⟨rfl, fun s huser => ⟨fun rs1 => takesFault_of_privileged huser rfl, takesFault_of_privileged huser rfl,
    fun r b off => ⟨?_, ?_, ?_, ?_, ?_, ?_, ?_, ?_⟩⟩⟩
  all_goals exact takesFault_of_privileged huser rfl

/-- Settles O58. -/
theorem statusRegister : Obligations.StatusRegister := by
  refine fun s r => ⟨writesReg_of_exec rfl, fun hsup => ?_⟩
  have hexec : exec (.ssreg r) s = s.finish (s.privileged (.ok (s.writePsr (s.reg r)))) := rfl
  rw [hexec, State.privileged, if_pos hsup]
  rfl

theorem State.syscallVector_eq (s : State) (rd : RegNum) (vector : BitVec 8) :
    s.syscallVector rd vector = .ok (if rd = 0#5 then vector else (s.reg rd).setWidth 8) := by
  unfold State.syscallVector
  by_cases h : rd = 0#5
  · rw [if_pos h, if_pos h]
  · rw [if_neg h, if_neg h, if_neg fun hwide => absurd hwide.1 (by decide), BitVec.setWidth_eq_extractLsb' (by decide)]

theorem exec_syscall (s : State) (rd : RegNum) (vector : BitVec 8) : exec (.syscall rd vector) s =
    .next (s.trapEntry .trap (if rd = 0#5 then vector else (s.reg rd).setWidth 8) s.pc) := by
  rw [exec, execSyscall, State.syscallVector_eq]
  rfl

/-- Settles O59: a trap is taken whether or not a fault is being processed. -/
theorem systemCall : Obligations.SystemCall := by
  intro s rd vector v hv
  have hexec : exec (.syscall rd vector) s = .next (s.trapEntry .trap v s.pc) :=
    (exec_syscall s rd vector).trans (by rw [hv]; rfl)
  refine ⟨hexec, fun hmmu halign hroom hinside => ⟨_, hexec, ?_⟩⟩
  obtain ⟨m, hentry, hpsr, hpc, -⟩ := State.trapEntry_plain hmmu halign hroom hinside (k := .trap)
    (fun h => by cases h.1) v s.pc
  rw [hentry, ← State.vectorEntry_eq]
  exact ⟨rfl, TrapKind.trap.getLsbD_enterPsr s.psr (i := 31) (by decide) (by decide), rfl, rfl,
    Bool.or_false _, TrapKind.trap.priority_enterPsr s, hpsr, hpc⟩

end Sys2Proof.Machine

end


/-! PROOFS. Jumps and branches (spec/40_u_j.md, 41_b.md) and the arithmetic of the I and R instructions
(spec/43_i_arith.md, 45_r.md). -/
section

namespace Sys2Proof.Machine

/-! Addresses relative to a word. -/

theorem add_immWord (a : Word) (off : Int) : a + immWord off = BitVec.ofInt 32 (a.toNat + off) := by
  rw [BitVec.ofInt_add, BitVec.ofInt_natCast, BitVec.ofNat_toNat, BitVec.setWidth_eq]
  rfl

/-- An instruction that links `pc` and jumps. -/
theorem linked_of_exec {i : Instr} {s : State} {rd : RegNum} {target : Word}
    (h : exec i s = .next { s.setReg rd s.pc with pc := target }) :
    ∃ t, exec i s = .next t ∧ t.pc = target ∧ t.reg rd = (if rd = 0#5 then 0#32 else s.pc) ∧
      RegisterFrame s t [rd] :=
  ⟨_, h, rfl, s.reg_setReg_same rd s.pc, registerFrame_setReg s rd s.pc⟩

theorem upperImm_add_toNat (imm : BitVec 20) (a : Word) :
    upperImm imm + a = BitVec.ofNat 32 (imm.toNat * 4096 + a.toNat) := by
  apply BitVec.eq_of_toNat_eq
  rw [upperImm_eq_shiftLeft]
  simp only [BitVec.toNat_add, BitVec.toNat_shiftLeft, BitVec.toNat_setWidth, BitVec.toNat_ofNat,
    Nat.shiftLeft_eq]
  omega

/-- Settles O32. -/
theorem programCounterRelative : Obligations.ProgramCounterRelative := by
  intro s rd imm off
  refine ⟨writesReg_of_exec ?_, linked_of_exec ?_⟩
  · rw [← upperImm_add_toNat]
    rfl
  · rw [← add_immWord]
    rfl

/-- Settles O34: the target is computed before the link register is written. -/
theorem jumpAndLinkRegister : Obligations.JumpAndLinkRegister := by
  intro s rd rs1 off
  refine linked_of_exec ?_
  rw [← add_immWord]
  rfl

theorem State.branch_eq (s : State) {taken : Bool} {c : Prop} [Decidable c] (h : taken = true ↔ c) (off : Int) :
    s.branch taken off = .next { s with pc := if c then BitVec.ofInt 32 (s.pc.toNat + off) else s.pc } := by
  rw [← add_immWord, State.branch]
  by_cases hc : c
  · rw [if_pos (h.2 hc), if_pos hc]
    rfl
  · rw [if_neg (mt h.1 hc), if_neg hc]

/-- Settles O33: each condition is what its instruction tests, and a jump offset is a multiple of 4. -/
theorem conditionalBranches : Obligations.ConditionalBranches := by
  intro s rs1 rs2 off hoff
  refine ⟨s.branch_eq beq_iff_eq off, s.branch_eq bne_iff_ne off, s.branch_eq decide_eq_true_iff off,
    s.branch_eq decide_eq_true_iff off, s.branch_eq decide_eq_true_iff off, s.branch_eq decide_eq_true_iff off,
    fun hpc => ?_⟩
  have hmultiple : off % 4 = 0 := by
    obtain ⟨hmod, -, -⟩ := (fitsJump15_iff off).1 hoff
    exact hmod
  rw [BitVec.toNat_ofInt]
  omega

/-! Narrowing exact integers. -/

theorem ofInt_toInt_add (a b : Word) : a + b = BitVec.ofInt 32 (a.toInt + b.toInt) := by
  rw [BitVec.ofInt_add, BitVec.ofInt_toInt, BitVec.ofInt_toInt]

theorem ofInt_toInt_sub (a b : Word) : a - b = BitVec.ofInt 32 (a.toInt - b.toInt) := by
  rw [Int.sub_eq_add_neg, BitVec.ofInt_add, BitVec.ofInt_neg, BitVec.ofInt_toInt, BitVec.ofInt_toInt,
    BitVec.sub_eq_add_neg]

theorem productLow_eq (a b : Word) : productLow a b = BitVec.ofInt 32 (a.toInt * b.toInt) := by
  apply BitVec.eq_of_toNat_eq
  simp only [productLow, product, BitVec.extractLsb'_toNat, BitVec.toNat_ofInt, Nat.shiftRight_zero]
  omega

theorem productHigh_eq (a b : Word) : productHigh a b = BitVec.ofInt 32 (a.toInt * b.toInt / 2 ^ 32) := by
  apply BitVec.eq_of_toNat_eq
  simp only [productHigh, product, BitVec.extractLsb'_toNat, BitVec.toNat_ofInt, Nat.shiftRight_eq_div_pow]
  omega

theorem quotient_eq (a b : Word) : quotient a b = BitVec.ofInt 32 (a.toInt.tdiv b.toInt) :=
  if_neg fun h => absurd h.2 (by decide)

theorem immWord_eq_signExtend {imm : Int} (h : fitsImm15 imm = true) :
    immWord imm = (BitVec.ofInt 15 imm).signExtend 32 := by
  obtain ⟨hlow, hhigh⟩ := (fitsImm15_iff imm).1 h
  apply BitVec.eq_of_toInt_eq
  rw [immWord_toInt h, BitVec.toInt_signExtend_of_le (by decide),
    BitVec.toInt_ofInt_eq_self (by decide) (by omega) (by omega)]

/-- Settles O39. -/
theorem immediateArithmetic : Obligations.ImmediateArithmetic := by
  intro s rd rs1 imm himm
  have himmInt : (immWord imm).toInt = imm := immWord_toInt himm
  have hlow := productLow_eq (s.reg rs1) (immWord imm)
  have hhigh := productHigh_eq (s.reg rs1) (immWord imm)
  have hadd := ofInt_toInt_add (s.reg rs1) (immWord imm)
  have hsub := ofInt_toInt_sub (s.reg rs1) (immWord imm)
  have hquotient := quotient_eq (s.reg rs1) (immWord imm)
  rw [himmInt] at hlow hhigh hadd hsub hquotient
  rw [← hlow, ← hhigh, ← hadd, ← hsub, ← immWord_eq_signExtend himm, ← hquotient]
  refine ⟨writesReg_of_exec rfl, writesReg_of_exec rfl, writesReg_of_exec rfl, writesReg_of_exec rfl,
    writesReg_of_exec rfl, writesReg_of_exec rfl, writesReg_of_exec rfl, fun hne => writesReg_of_exec ?_⟩
  rw [exec_idivi, if_neg (mt (immWord_eq_zero_iff himm).1 hne)]

/-! Shifts and rotations. -/

theorem shiftCount_eq (b : Word) : shiftCount b = b.toNat % 32 := by
  rw [shiftCount, BitVec.extractLsb'_toNat, Nat.shiftRight_zero]

theorem shiftCount_immWord {imm : Int} {k : Nat} (h : (k : Int) = imm % 32) : shiftCount (immWord imm) = k := by
  rw [shiftCount_eq, immWord, BitVec.toNat_ofInt]
  omega

theorem sshiftRight_eq_ofInt (a : Word) (k : Nat) : a.sshiftRight k = BitVec.ofInt 32 (a.toInt / 2 ^ k) := by
  rw [BitVec.sshiftRight, Int.shiftRight_eq_div_pow]
  norm_cast

theorem ushiftRight_eq_ofNat (a : Word) (k : Nat) : a >>> k = BitVec.ofNat 32 (a.toNat / 2 ^ k) := by
  apply BitVec.eq_of_toNat_eq
  rw [BitVec.toNat_ushiftRight, BitVec.toNat_ofNat, Nat.shiftRight_eq_div_pow,
    Nat.mod_eq_of_lt (Nat.lt_of_le_of_lt (Nat.div_le_self _ _) a.isLt)]

theorem shiftLeft_eq_ofNat (a : Word) (k : Nat) : a <<< k = BitVec.ofNat 32 (a.toNat * 2 ^ k) := by
  apply BitVec.eq_of_toNat_eq
  rw [BitVec.toNat_shiftLeft, BitVec.toNat_ofNat, Nat.shiftLeft_eq]

/-- Settles O40. -/
theorem immediateShifts : Obligations.ImmediateShifts := by
  intro s rd rs1 imm k _ hk
  rw [← sshiftRight_eq_ofInt, ← ushiftRight_eq_ofNat, ← shiftLeft_eq_ofNat, ← shiftCount_immWord hk]
  exact ⟨writesReg_of_exec (exec_shira ..), writesReg_of_exec (exec_shirl ..), writesReg_of_exec (exec_shill ..)⟩

theorem getLsbD_rotatedRight (a : Word) {j k : Nat} (hj : j < 32) (hk : k < 32) :
    (rotatedRight a k).getLsbD j = a.getLsbD ((j + k) % 32) := by
  unfold rotatedRight
  by_cases hzero : k = 0
  · rw [if_pos hzero, hzero, Nat.add_zero, Nat.mod_eq_of_lt hj]
  rw [if_neg hzero, BitVec.getLsbD_or, BitVec.getLsbD_ushiftRight, BitVec.getLsbD_shiftLeft]
  by_cases hwrap : j + k < 32
  · have hlow : j < 32 - k := by omega
    simp [hj, hlow, Nat.mod_eq_of_lt hwrap, Nat.add_comm]
  · have hhigh : ¬ j < 32 - k := by omega
    have hindex : j - (32 - k) = (j + k) % 32 := by omega
    simp [hj, hhigh, hindex, BitVec.getLsbD_of_ge a (k + j) (by omega)]

theorem getLsbD_rotatedLeft (a : Word) {j k : Nat} (hj : j < 32) (hk : k < 32) :
    (rotatedLeft a k).getLsbD ((j + k) % 32) = a.getLsbD j := by
  unfold rotatedLeft
  by_cases hzero : k = 0
  · rw [if_pos hzero, hzero, Nat.add_zero, Nat.mod_eq_of_lt hj]
  rw [if_neg hzero, BitVec.getLsbD_or, BitVec.getLsbD_ushiftRight, BitVec.getLsbD_shiftLeft]
  by_cases hwrap : j + k < 32
  · have hbeyond : 32 ≤ 32 - k + (j + k) := by omega
    simp [hwrap, Nat.mod_eq_of_lt hwrap, BitVec.getLsbD_of_ge a _ hbeyond]
  · have hlow : (j + k) % 32 < k := by omega
    have hindex : 32 - k + (j + k) % 32 = j := by omega
    simp [hlow, hindex]

/-- Settles O43. -/
theorem registerShifts : Obligations.RegisterShifts := by
  intro s rd rs1 rs2 k hk
  have hlt : k < 32 := by omega
  rw [← shiftCount_eq] at hk
  rw [← sshiftRight_eq_ofInt, ← ushiftRight_eq_ofNat, ← shiftLeft_eq_ofNat]
  refine ⟨writesReg_of_exec ?_, writesReg_of_exec ?_, writesReg_of_exec ?_, rotatedRight (s.reg rs1) k,
    rotatedLeft (s.reg rs1) k, writesReg_of_exec ?_, writesReg_of_exec ?_,
    fun j hj => ⟨getLsbD_rotatedRight _ hj hlt, getLsbD_rotatedLeft _ hj hlt⟩⟩
  · rw [exec_shra, hk]
  · rw [exec_shrl, hk]
  · rw [exec_shll, hk]
  · rw [exec_ror, hk]
  · rw [exec_rol, hk]

/-! Counting bits. -/

/-- The first number below `n` that a test holds of, `n` if there is none. -/
theorem find?_range_getD {p : Nat → Bool} {n z : Nat} (h : ((List.range n).find? p).getD n = z) :
    z ≤ n ∧ (∀ k, k < z → p k = false) ∧ (z < n → p z = true) := by
  cases hfind : (List.range n).find? p with
  | none =>
    have hnone := List.find?_range_eq_none.1 hfind
    rw [hfind] at h
    subst h
    exact ⟨Nat.le_refl n, fun k hk => by simpa using hnone k hk, fun hlt => absurd hlt (Nat.lt_irrefl n)⟩
  | some i =>
    obtain ⟨hi, hmem, hbefore⟩ := List.find?_range_eq_some.1 hfind
    rw [hfind] at h
    subst h
    exact ⟨Nat.le_of_lt (List.mem_range.1 hmem), fun k hk => by simpa using hbefore k hk, fun _ => hi⟩

theorem setBits_eq_card (a : Word) :
    setBits a = ((Finset.range 32).filter (fun k => a.getLsbD k = true)).card := by
  simp only [setBits, List.countP_eq_length_filter, Finset.card, Finset.filter, Finset.range, Multiset.range,
    Multiset.filter_coe, Multiset.coe_card, Bool.decide_eq_true]

/-- Settles O42. -/
theorem bitCounts : Obligations.BitCounts := by
  intro s rd rs1
  obtain ⟨hz, hzbelow, hzset⟩ := find?_range_getD (z := trailingZeros (s.reg rs1)) rfl
  obtain ⟨hl, hlbelow, hlset⟩ := find?_range_getD (z := leadingZeros (s.reg rs1)) rfl
  refine ⟨trailingZeros (s.reg rs1), leadingZeros (s.reg rs1), writesReg_of_exec rfl, writesReg_of_exec rfl,
    writesReg_of_exec ?_, hz, hzbelow, hzset, hl, hlbelow, hlset, fun hzero => ?_⟩
  · rw [← setBits_eq_card]
    rfl
  · rw [hzero] at *
    exact ⟨rfl, rfl⟩

/-! Multiplication and division. -/

/-- Two results, the second written last. -/
theorem State.setReg_setReg (s : State) (rd rd2 : RegNum) (first second : Word) :
    ((s.setReg rd first).setReg rd2 second).reg rd2 = (if rd2 = 0#5 then 0#32 else second) ∧
      (rd ≠ rd2 → ((s.setReg rd first).setReg rd2 second).reg rd = (if rd = 0#5 then 0#32 else first)) ∧
      RegisterFrame s ((s.setReg rd first).setReg rd2 second) [rd, rd2] ∧
      ((s.setReg rd first).setReg rd2 second).pc = s.pc := by
  refine ⟨State.reg_setReg_same _ rd2 second, fun hne => ?_,
    (registerFrame_setReg s rd first).trans (registerFrame_setReg _ rd2 second), by simp⟩
  rw [State.reg_setReg, if_neg fun h => hne h.1, State.reg_setReg_same]

theorem product_split (a b : Word) :
    (productHigh a b).toInt * 2 ^ 32 + (productLow a b).toNat = a.toInt * b.toInt := by
  have hbound : ∀ w : Word, w.toInt.natAbs ≤ 2 ^ 31 := fun w => by
    have hlow := w.le_toInt
    have hhigh := w.toInt_lt
    omega
  have hfits : (a.toInt * b.toInt).natAbs ≤ 2 ^ 31 * 2 ^ 31 := by
    rw [Int.natAbs_mul]
    exact Nat.mul_le_mul (hbound a) (hbound b)
  rw [productHigh_eq, productLow_eq, BitVec.toNat_ofInt,
    BitVec.toInt_ofInt_eq_self (by decide) (by omega) (by omega)]
  omega

/-- Settles O44: the product of two words fits 64 bits, so its two halves give it back. -/
theorem signedMultiply : Obligations.SignedMultiply := by
  intro s rd rd2 rs1 rs2
  exact ⟨_, productHigh (s.reg rs1) (s.reg rs2), productLow (s.reg rs1) (s.reg rs2), rfl, product_split _ _,
    s.setReg_setReg rd rd2 _ _⟩

theorem quotient_eq_sdiv (a b : Word) : quotient a b = a.sdiv b := by
  apply BitVec.eq_of_toInt_eq
  rw [quotient_eq, BitVec.toInt_ofInt, BitVec.toInt_sdiv]

theorem remainder_eq_srem (a b : Word) : remainder a b = a.srem b := by
  have hremainder : remainder a b = a - quotient a b * b := if_neg fun h => absurd h.2 (by decide)
  have hnarrow : a - quotient a b * b = BitVec.ofInt 32 (a.toInt.tmod b.toInt) := by
    rw [quotient_eq, Int.tmod_def, Int.sub_eq_add_neg, BitVec.ofInt_add, BitVec.ofInt_neg, BitVec.ofInt_mul,
      BitVec.ofInt_toInt, BitVec.ofInt_toInt, BitVec.sub_eq_add_neg, BitVec.mul_comm]
  rw [hremainder, hnarrow]
  apply BitVec.eq_of_toInt_eq
  rw [BitVec.toInt_ofInt, ← BitVec.toInt_srem, BitVec.toInt_bmod_cancel]

/-- Settles O45: the quotient and the remainder are those of the library, whose one exception is the overflow. -/
theorem signedDivide : Obligations.SignedDivide := by
  intro s rd rd2 rs1 rs2 hne
  have hexec : exec (.idiv rd rd2 rs1 rs2) s = .next (s.divided rd rd2 rs1 rs2) := by
    rw [exec_idiv]
    exact congrArg _ (if_neg hne)
  obtain ⟨hreg2, hreg, hframe, hpc⟩ := s.setReg_setReg rd rd2 (quotient (s.reg rs1) (s.reg rs2))
    (remainder (s.reg rs1) (s.reg rs2))
  refine ⟨_, _, _, hexec, hreg2, hreg, hframe, hpc, ?_⟩
  clear hexec hreg2 hreg hframe hpc
  generalize s.reg rs1 = a
  generalize s.reg rs2 = b at hne ⊢
  have hb : b.toInt ≠ 0 := fun h => hne (BitVec.eq_of_toInt_eq (h.trans (by decide)))
  rw [quotient_eq_sdiv, remainder_eq_srem, BitVec.toInt_srem]
  refine ⟨?_, fun h => Int.tmod_nonneg _ h, fun h => ?_, fun h => ?_, fun h => ?_⟩
  · rw [Int.natAbs_tmod]
    exact Nat.mod_lt _ (Int.natAbs_pos.2 hb)
  · have hneg := Int.tmod_nonneg b.toInt (Int.neg_nonneg.2 h)
    rw [Int.neg_tmod] at hneg
    omega
  · rw [BitVec.toInt_sdiv_of_ne_or_ne a b (not_and_or.1 h), Int.tmod_def, Int.mul_comm]
    omega
  · rw [h.1, h.2]
    decide

end Sys2Proof.Machine

end


/-! PROOFS. The M instructions that stop at a check, `restore`, and the frames of them all (O30, O50, O55). -/
section

namespace Sys2Proof.Machine

/-! A check that stops an instruction. -/

theorem takesFault_of_error {i : Instr} {s : State} {r : Except Stop State} {e : Exc}
    (hexec : exec i s = s.finish r) (h : r = .error (.raise e)) : TakesFault i s e := by
  rw [TakesFault, hexec, h]
  rfl

section MainErrors

variable {s : State} {va : Word} {size : Size} {e : Stop}

theorem State.memWriteWatching_of_error {watched : List Nat} {v : Word} (h : s.locate va .write size = .error e) :
    s.memWriteWatching watched va size v = .error e := by
  simp only [State.memWriteWatching, inOnePiece, Config.alignCheck_eq, Bool.true_or, if_true, State.writePiece, h]

theorem State.loadMain_of_error {rd base : RegNum} {off : Int} {extend : Size → Word → Word}
    (h : s.locate (s.effAddr base off) .read size = .error e) : s.loadMain rd base off size extend = .error e := by
  rw [State.loadMain, State.memRead_of_error h]
  rfl

theorem State.storeMain_of_error {rs base : RegNum} {off : Int}
    (h : s.locate (s.effAddr base off) .write size = .error e) : s.storeMain rs base off size = .error e :=
  State.memWrite_of_error h

theorem State.popItem_of_error {rd sp : RegNum} (h : s.locate (s.reg sp) .read size = .error e) :
    s.popItem rd sp size = .error e := by
  rw [State.popItem, State.memRead_of_error h]
  rfl

theorem State.pushItem_of_error {rd sp : RegNum} (h : s.locate (s.reg sp - sizeWord size) .write size = .error e) :
    s.pushItem rd sp size = .error e := by
  rw [State.pushItem, State.pushAddr, State.memWriteWatching_of_error h]
  rfl

end MainErrors

/-- A write that a check stops, checked beforehand. -/
theorem State.checkWrite_eq (s : State) (va : Word) (size : Size) :
    s.checkWrite va size = (s.locate va .write size).map fun _ => () := by
  rw [State.checkWrite, State.memWrite_eq]
  cases s.locate va .write size <;> rfl

theorem State.checkRead_eq (s : State) (va : Word) (size : Size) :
    s.checkRead va size = (s.locate va .read size).map fun _ => () := by
  rw [State.checkRead, State.memRead_eq, State.readPiece]
  cases s.locate va .read size <;> rfl

section Pointers

variable {s : State} {rd rs1 : RegNum} {e : Exc}

theorem takesFault_first (h : s.locate (s.reg rs1) .read .word = .error (.raise e)) :
    TakesFault (.fromPtr rd rs1) s e ∧ TakesFault (.through rd rs1) s e := by
  have hread := State.memRead_of_error h
  refine ⟨takesFault_of_error rfl ?_, takesFault_of_error rfl ?_⟩
  · rw [hread]
    rfl
  · rw [hread]
    rfl

theorem takesFault_second {tr : Translation} (h : s.locate (s.reg rs1) .read .word = .ok tr) :
    (s.locate (Memory.load s.main tr.phys .word) .read .word = .error (.raise e) →
        TakesFault (.fromPtr rd rs1) s e) ∧
      (s.locate (Memory.load s.main tr.phys .word) .write .word = .error (.raise e) →
        TakesFault (.through rd rs1) s e) := by
  have hread := State.memRead_of_ok h
  refine ⟨fun hsecond => takesFault_of_error rfl ?_, fun hsecond => takesFault_of_error rfl ?_⟩
  · rw [hread]
    exact congrArg (fun v : Except Stop Word => v >>= fun v => .ok (s.setReg rd v)) (State.memRead_of_error hsecond)
  · rw [hread]
    have hcheck := (State.checkWrite_eq s _ .word).trans (congrArg (Except.map fun _ => ()) hsecond)
    exact congrArg (fun r : Except Stop Unit => r >>= fun _ => s.memWriteWatching _ _ _ _) hcheck

end Pointers

/-! The accesses of data memory. -/

theorem dataStop_misaligned {va : Word} {size : Size} (h : va.toNat % size.bytes ≠ 0) :
    dataStop va size = some .addressError :=
  if_pos ⟨Bool.eq_false_of_not_eq_true (mt aligned_iff.1 h), rfl⟩

theorem dataStop_beyond {va : Word} {size : Size} (h : va.toNat % size.bytes = 0) (hend : 2 ^ 16 ≤ va.toNat) :
    dataStop va size = some .busError := by
  have hbytes : 0 < size.bytes := by cases size <;> decide
  have hbeyond : va.toNat + size.bytes > Config.dataSize := by
    rw [Config.dataSize_eq]
    omega
  rw [dataStop, if_neg (by rw [aligned_iff.2 h]; exact fun h => by cases h.1), if_pos hbeyond]

section DataErrors

variable {s : State} {r b : RegNum} {off : Int} {size : Size} {e : Exc} {i : Instr} (hsup : s.supervisor = true)
  (h : dataStop (s.effAddr b off) size = some e)
include hsup h

theorem takesFault_loadData {extend : Size → Word → Word}
    (hexec : exec i s = s.finish (s.loadData r b off size extend)) : TakesFault i s e := by
  refine takesFault_of_error hexec ?_
  rw [State.loadData, State.privileged, if_pos hsup, State.dataRead, h]
  rfl

theorem takesFault_storeData (hexec : exec i s = s.finish (s.storeData r b off size)) : TakesFault i s e := by
  refine takesFault_of_error hexec ?_
  rw [State.storeData, State.privileged, if_pos hsup, State.dataWrite, h]

end DataErrors

/-! The checks of a list of accesses. -/

/-- Every check of one access. -/
def State.check (s : State) (x : Access) : Except Stop Unit := (s.locate x.1 x.2.1 x.2.2).map fun _ => ()

theorem State.check_of_ok {s : State} {x : Access} (h : ∃ tr, s.locate x.1 x.2.1 x.2.2 = .ok tr) :
    s.check x = .ok () := by
  obtain ⟨tr, h⟩ := h
  rw [State.check, h]
  rfl

/-- Checks in order end in the first that stops one. -/
theorem FirstStop.checks {s : State} {l : List Access} {e : Exc} (h : FirstStop s l e) :
    forM l s.check = .error (.raise e) := by
  obtain ⟨before, after, x, rfl, hbefore, hx⟩ := h
  have hstop : s.check x = .error (.raise e) := by
    rw [State.check, hx]
    rfl
  induction before with
  | nil =>
    rw [List.nil_append, List.forM_cons, hstop]
    rfl
  | cons y before ih =>
    rw [List.cons_append, List.forM_cons, State.check_of_ok (hbefore y List.mem_cons_self)]
    exact ih fun y hy => hbefore y (List.mem_cons_of_mem _ hy)

/-- A loop of checks is the checks of its passes, one list after another. -/
theorem forUp_check {s : State} {f : Nat → Unit → Except Stop Unit} {accesses : Nat → List Access}
    (hf : ∀ k, f k () = forM (accesses k) s.check) (n k : Nat) :
    forUp f n k () = forM ((List.range' k n).flatMap accesses) s.check := by
  induction n generalizing k with
  | zero => rfl
  | succ n ih =>
    rw [forUp, hf, List.range'_succ, List.flatMap_cons, List.forM_append]
    cases forM (accesses k) s.check with
    | error e => rfl
    | ok u => exact ih (k + 1)

theorem forUp_check_of_firstStop {s : State} {f : Nat → Unit → Except Stop Unit} {accesses : Nat → List Access}
    {n : Nat} {e : Exc} (hf : ∀ k, f k () = forM (accesses k) s.check)
    (h : FirstStop s ((List.range n).flatMap accesses) e) : forUp f n 0 () = .error (.raise e) := by
  rw [forUp_check hf, ← List.range_eq_range']
  exact h.checks

section Buffers

variable {s : State} {a b : Word} {n : Nat} {e : Exc}

theorem State.copyBuffer_of_stop (h : FirstStop s (copyAccesses a b n) e) :
    s.copyBuffer a b n = .error (.raise e) := by
  rw [State.copyBuffer, forUp_check_of_firstStop (fun k => ?_) h]
  · rfl
  · rw [State.copyCheck, State.checkRead_eq, State.checkWrite_eq]
    simp only [List.forM_cons, List.forM_nil, bind_pure_unit]
    rfl

theorem State.swapBuffers_of_stop (h : FirstStop s (swapAccesses a b n) e) :
    s.swapBuffers a b n = .error (.raise e) := by
  rw [State.swapBuffers, forUp_check_of_firstStop (fun k => ?_) h]
  · rfl
  · rw [State.swapCheck, State.checkRead_eq, State.checkRead_eq, State.checkWrite_eq, State.checkWrite_eq]
    simp only [List.forM_cons, List.forM_nil, bind_pure_unit]
    rfl

theorem State.fillBuffer_of_stop {v : Word} (h : FirstStop s (fillAccesses a n) e) :
    s.fillBuffer a n v = .error (.raise e) := by
  rw [fillAccesses, List.map_eq_flatMap] at h
  rw [State.fillBuffer, forUp_check_of_firstStop (fun k => ?_) h]
  · rfl
  · rw [State.fillCheck, State.checkWrite_eq]
    simp only [List.forM_cons, List.forM_nil, bind_pure_unit]
    rfl

theorem State.saveRange_of_stop {first : RegNum} (h : FirstStop s (rangeAccesses .write a n) e) :
    s.saveRange first a n = .error (.raise e) := by
  rw [rangeAccesses, List.map_eq_flatMap] at h
  rw [State.saveRange, forUp_check_of_firstStop (fun k => ?_) h]
  · rfl
  · rw [State.saveCheck, State.checkWrite_eq]
    simp only [List.forM_cons, List.forM_nil, bind_pure_unit]
    rfl

end Buffers

/-! `restore` (spec/46_m.md R254). -/

/-- The checks of an access look at `psr` and the two memories. -/
theorem State.locate_congr {s t : State} (hpsr : t.psr = s.psr) (hmain : t.main = s.main) (hdata : t.data = s.data)
    (va : Word) (kind : AccessKind) (size : Size) : t.locate va kind size = s.locate va kind size := by
  cases s
  cases t
  cases hpsr
  cases hmain
  cases hdata
  rfl

/-- `t` is `s` after the first `k` passes of `restore`. -/
structure Restored (s : State) (first : RegNum) (k : Nat) (t : State) : Prop where
  frame : RegisterFrame s t ((List.range k).map fun j => first + BitVec.ofNat 5 j)
  pc : t.pc = s.pc
  main : t.main = s.main
  data : t.data = s.data

theorem Restored.refl (s : State) (first : RegNum) : Restored s first 0 s :=
  ⟨⟨⟨rfl, rfl, rfl, rfl, rfl, rfl, rfl⟩, fun _ => rfl, fun _ => rfl, fun _ _ => rfl, by split <;> rfl⟩, rfl, rfl, rfl⟩

section Restored

variable {s t : State} {first : RegNum} {base : Word} {k : Nat}

theorem Restored.locate (h : Restored s first k t) (va : Word) (kind : AccessKind) (size : Size) :
    t.locate va kind size = s.locate va kind size :=
  State.locate_congr h.frame.1.1 h.main h.data va kind size

theorem Restored.setReg (h : Restored s first k t) (v : Word) :
    Restored s first (k + 1) (t.setReg (rangeReg first k) v) := by
  refine ⟨?_, by rw [State.setReg_pc, h.pc], by rw [State.setReg_main, h.main], by rw [State.setReg_data, h.data]⟩
  rw [List.range_succ, List.map_append]
  exact h.frame.trans (registerFrame_setReg t (rangeReg first k) v)

theorem Restored.word_of_ok (h : Restored s first k t) {tr : Translation}
    (hlocate : s.locate (base + BitVec.ofNat 32 (4 * k)) .read .word = .ok tr) :
    restoreWord base first k t = .ok (t.setReg (rangeReg first k) (Memory.load s.main tr.phys .word)) := by
  rw [← h.locate] at hlocate
  rw [restoreWord, addrUp, State.memRead_of_ok hlocate, h.main]
  rfl

theorem Restored.word_of_error (h : Restored s first k t) {e : Stop}
    (hlocate : s.locate (base + BitVec.ofNat 32 (4 * k)) .read .word = .error e) :
    restoreWord base first k t = .error e := by
  rw [← h.locate] at hlocate
  rw [restoreWord, addrUp, State.memRead_of_error hlocate]
  rfl

theorem Restored.next {u : State} (h : Restored s first k t) (hword : restoreWord base first k t = .ok u) :
    Restored s first (k + 1) u := by
  obtain ⟨v, -, hu⟩ := except_bind_ok hword
  cases hu
  exact h.setReg v

end Restored

/-- Where the first stop of one access for each number stands. -/
theorem FirstStop.index {s : State} {accesses : Nat → Access} {n : Nat} {e : Exc}
    (h : FirstStop s ((List.range n).map accesses) e) :
    ∃ m, m < n ∧ s.locate (accesses m).1 (accesses m).2.1 (accesses m).2.2 = .error (.raise e) ∧
      ∀ k, k < m → ∃ tr, s.locate (accesses k).1 (accesses k).2.1 (accesses k).2.2 = .ok tr := by
  obtain ⟨before, after, x, hsplit, hbefore, hx⟩ := h
  have hlength := congrArg List.length hsplit
  have hget := fun k : Nat => congrArg (fun l : List Access => l[k]?) hsplit
  simp only [List.length_map, List.length_range, List.length_append, List.length_cons] at hlength
  refine ⟨before.length, by omega, ?_, fun k hk => ?_⟩
  · have hm := hget before.length
    simp only [List.getElem?_map, List.getElem?_range (show before.length < n by omega), Option.map_some,
      List.getElem?_append_right le_rfl, Nat.sub_self, List.getElem?_cons_zero, Option.some.injEq] at hm
    rwa [hm]
  · have hk' := hget k
    simp only [List.getElem?_map, List.getElem?_range (show k < n by omega), Option.map_some,
      List.getElem?_append_left hk] at hk'
    exact hbefore _ (List.mem_of_getElem? hk'.symm)

theorem State.restoreRange_of_stop {s : State} {first : RegNum} {base : Word} {n : Nat} {e : Exc}
    (h : FirstStop s (rangeAccesses .read base n) e) : s.restoreRange first base n = .error (.raise e) := by
  obtain ⟨m, hm, hstop, hbefore⟩ := h.index
  refine forUp_stops (fun k t => Restored s first k t) hm (fun k t _ hk ht => ?_) (fun t ht => ?_)
    (Restored.refl s first)
  · rw [Nat.zero_add] at hk
    obtain ⟨tr, htr⟩ := hbefore k hk
    exact ⟨_, ht.word_of_ok htr, ht.setReg _⟩
  · rw [Nat.zero_add] at ht ⊢
    exact ht.word_of_error hstop

/-- Settles O30: the effect of each instruction ends in the stop of its first access that a check stops. -/
theorem accessFaults : Obligations.AccessFaults := by
  refine ⟨rfl, rfl, fun s r b off e =>
    ⟨?_, ?_, ?_, ?_, ?_, ?_, ?_, ?_, ?_, ?_, ?_, ?_, ?_, fun c => ?_, fun hsup => ?_⟩⟩
  case refine_1 | refine_2 =>
    exact fun h => ⟨takesFault_of_error rfl (State.loadMain_of_error h),
      takesFault_of_error rfl (State.loadMain_of_error h)⟩
  case refine_3 => exact fun h => takesFault_of_error rfl (State.loadMain_of_error h)
  case refine_4 | refine_5 | refine_6 => exact fun h => takesFault_of_error rfl (State.storeMain_of_error h)
  case refine_7 | refine_8 => exact fun h => takesFault_of_error rfl (State.popItem_of_error h)
  case refine_9 => exact fun h => ⟨takesFault_of_error rfl (State.popItem_of_error h), takesFault_first h⟩
  case refine_10 | refine_11 | refine_12 => exact fun h => takesFault_of_error rfl (State.pushItem_of_error h)
  case refine_13 => exact fun tr h => takesFault_second h
  case refine_14 =>
    exact ⟨fun h => takesFault_of_error rfl (State.copyBuffer_of_stop h),
      fun h => takesFault_of_error rfl (State.swapBuffers_of_stop h),
      fun h => takesFault_of_error rfl (State.fillBuffer_of_stop h),
      fun h => takesFault_of_error rfl (State.saveRange_of_stop h),
      fun h => takesFault_of_error rfl (State.restoreRange_of_stop h)⟩
  case refine_15 =>
    refine ⟨fun hodd => ?_, fun hmod => ?_, fun hend => ⟨?_, ?_, ?_, fun heven => ?_, fun hmod => ?_⟩⟩
    · have hstop := dataStop_misaligned (size := .half) (Nat.mod_two_ne_zero.2 hodd)
      exact ⟨takesFault_loadData hsup hstop rfl, takesFault_loadData hsup hstop rfl,
        takesFault_storeData hsup hstop rfl⟩
    · have hstop := dataStop_misaligned (size := .word) hmod
      exact ⟨takesFault_loadData hsup hstop rfl, takesFault_storeData hsup hstop rfl⟩
    · exact takesFault_loadData hsup (dataStop_beyond (size := .byte) (Nat.mod_one _) hend) rfl
    · exact takesFault_loadData hsup (dataStop_beyond (size := .byte) (Nat.mod_one _) hend) rfl
    · exact takesFault_storeData hsup (dataStop_beyond (size := .byte) (Nat.mod_one _) hend) rfl
    · have hstop := dataStop_beyond (size := .half) heven hend
      exact ⟨takesFault_loadData hsup hstop rfl, takesFault_loadData hsup hstop rfl,
        takesFault_storeData hsup hstop rfl⟩
    · have hstop := dataStop_beyond (size := .word) hmod hend
      exact ⟨takesFault_loadData hsup hstop rfl, takesFault_storeData hsup hstop rfl⟩

/-- The registers of a range are different. -/
theorem rangeReg_ne {first : RegNum} {j k : Nat} (hj : j < 32) (hk : k < 32) (hne : j ≠ k) :
    first + BitVec.ofNat 5 j ≠ first + BitVec.ofNat 5 k := by
  intro h
  have hnat := congrArg BitVec.toNat ((BitVec.add_right_inj first).1 h)
  simp only [BitVec.toNat_ofNat] at hnat
  omega

/-- The first `k` registers of a range hold the words read for them (`r0` keeps none). -/
def RegistersLoaded (s : State) (first : RegNum) (g : Nat → Nat) (k : Nat) (t : State) : Prop :=
  ∀ j, j < k → first + BitVec.ofNat 5 j ≠ 0 → t.reg (first + BitVec.ofNat 5 j) = Memory.load s.main (g j) .word

theorem RegistersLoaded.setReg {s t : State} {first : RegNum} {g : Nat → Nat} {k : Nat} (hk : k < 32)
    (h : RegistersLoaded s first g k t) :
    RegistersLoaded s first g (k + 1) (t.setReg (rangeReg first k) (Memory.load s.main (g k) .word)) := by
  intro j hj hne
  rw [State.reg_setReg]
  by_cases hjk : j = k
  · subst hjk
    exact if_pos ⟨rfl, hne⟩
  · rw [if_neg fun h => rangeReg_ne (by omega) hk hjk h.1]
    exact h j (by omega) hne

/-- Settles O50: each pass reads memory as it was, and writes a register that no other pass does. -/
theorem restoreRange : Obligations.RestoreRange := by
  intro s first last src n g hn hallowed
  have hcount : n ≤ 32 := by
    have hlast := last.isLt
    omega
  have hloop := forUp_reaches (fun k t => Restored s first k t ∧ RegistersLoaded s first g k t)
    (f := restoreWord (s.reg src) first) (n := n) (k := 0) (x := s)
    (fun k _ _ hk ⟨ht, hloaded⟩ =>
      ⟨_, ht.word_of_ok (hallowed k (by omega)), ht.setReg _, hloaded.setReg (by omega)⟩)
    ⟨Restored.refl s first, fun j hj => absurd hj (Nat.not_lt_zero j)⟩
  obtain ⟨t, ht, hrestored, hloaded⟩ := hloop
  rw [Nat.zero_add] at hrestored hloaded
  have hexec : exec (.restore first last src) s = s.finish (forUp (restoreWord (s.reg src) first) n 0 s) := by
    rw [hn]
    rfl
  rw [ht] at hexec
  refine ⟨t, hexec, hrestored.pc, hrestored.frame, hloaded, fun hzero => ?_⟩
  rw [hzero] at ht
  cases ht
  rfl

/-! What the M instructions change. -/

/-- An instruction that ends in a next state completed, or took a fault. -/
theorem exec_next_cases {i : Instr} {s t : State} {r : Except Stop State} (hexec : exec i s = s.finish r)
    (h : exec i s = .next t) : r = .ok t ∨ ∃ e, t = s.trapEntry .fault (Exc.vector e) (s.pc - 4) := by
  rw [hexec] at h
  rcases State.finish_next.1 h with hok | ⟨e, -, htrap⟩
  · exact .inl hok
  · exact .inr ⟨e, htrap⟩

theorem MainChange.of_through {s t : State} {va : Word} {watched : Word → List Nat} {v : Word}
    (h : (do
      let p ← s.memRead va .word
      s.checkWrite p .word
      s.memWriteWatching (watched p) p .word v) = .ok t) : MainChange s t := by
  obtain ⟨p, -, h⟩ := except_bind_ok h
  obtain ⟨-, -, h⟩ := except_bind_ok h
  exact .of_memWriteWatching h

theorem registerFrame_of_restoreRange {s t : State} {first : RegNum} {base : Word} {n : Nat}
    (h : s.restoreRange first base n = .ok t) :
    RegisterFrame s t ((List.range n).map fun k => first + BitVec.ofNat 5 k) ∧ t.pc = s.pc := by
  have hrestored := forUp_ok (Restored s first) (fun _ _ _ ht hword => ht.next hword) (Restored.refl s first) h
  rw [Nat.zero_add] at hrestored
  exact ⟨hrestored.frame, hrestored.pc⟩

theorem registerFrame_of_popItem {s t : State} {rd sp : RegNum} {size : Size} (h : s.popItem rd sp size = .ok t) :
    RegisterFrame s t [rd, sp] ∧ t.pc = s.pc := by
  obtain ⟨v, -, ht⟩ := except_bind_ok h
  cases ht
  exact ⟨registerFrame_popped s rd sp size v, by rw [State.setReg_pc, State.setReg_pc]⟩

/-- A push changes main memory and the pointer. -/
theorem pushItem_frame {s t : State} {rd sp : RegNum} {size : Size} (h : s.pushItem rd sp size = .ok t) :
    SameControl s t ∧ SameData s t ∧ SameRegsBut s t [sp] ∧ t.pc = s.pc := by
  obtain ⟨u, hu, ht⟩ := except_bind_ok h
  cases ht
  obtain ⟨hcontrol, hdata, hregs, hpc⟩ := onlyMain_of_frame (MainChange.of_memWriteWatching hu).frame
  obtain ⟨hcontrol', -, hdata', hregs'⟩ := registerFrame_setReg u sp (s.pushAddr sp size)
  exact ⟨hcontrol.trans hcontrol', fun a => (hdata' a).trans (hdata a), hregs.trans hcontrol.supervisor hregs',
    (State.setReg_pc ..).trans hpc⟩

/-- Settles O55. -/
theorem bulkInstructionsFrame : Obligations.BulkInstructionsFrame := by
  intro s t a b c i h
  refine ⟨fun hi => ?_, fun hi => ?_, fun hi => ?_, fun hi => ?_, fun hi => ?_⟩
  · have honly : ∀ {r : Except Stop State}, exec i s = s.finish r → (r = .ok t → MainChange s t) →
        OnlyMain s t ∨ ∃ e, t = s.trapEntry .fault (Exc.vector e) (s.pc - 4) := fun hexec hr =>
      (exec_next_cases hexec h).imp_left fun hok => onlyMain_of_frame (hr hok).frame
    simp only [List.mem_cons, List.not_mem_nil, or_false] at hi
    rcases hi with rfl | rfl | rfl | rfl | rfl
    · exact honly rfl .of_copyBuffer
    · exact honly rfl .of_swapBuffers
    · exact honly rfl .of_fillBuffer
    · exact honly rfl .of_saveRange
    · exact honly rfl .of_through
  · subst hi
    exact (exec_next_cases rfl h).imp_left registerFrame_of_restoreRange
  · subst hi
    refine (exec_next_cases rfl h).imp_left fun hok => ?_
    obtain ⟨p, -, hok⟩ := except_bind_ok hok
    obtain ⟨v, -, ht⟩ := except_bind_ok hok
    cases ht
    exact ⟨registerFrame_setReg s a v, s.setReg_pc a v⟩
  · simp only [List.mem_cons, List.not_mem_nil, or_false] at hi
    rcases hi with rfl | rfl | rfl
    · exact (exec_next_cases rfl h).imp_left registerFrame_of_popItem
    · exact (exec_next_cases rfl h).imp_left registerFrame_of_popItem
    · exact (exec_next_cases rfl h).imp_left registerFrame_of_popItem
  · simp only [List.mem_cons, List.not_mem_nil, or_false] at hi
    rcases hi with rfl | rfl | rfl
    · exact (exec_next_cases rfl h).imp_left pushItem_frame
    · exact (exec_next_cases rfl h).imp_left pushItem_frame
    · exact (exec_next_cases rfl h).imp_left pushItem_frame

end Sys2Proof.Machine

end
